-- ==== Sys2Proof/Word.lean ====
section
/-! DEFINITION. The two word types of the U 808 D: bytes (00_scope R6 `DATA_W`) and addresses (`ADDR_W`). -/

namespace Sys2Proof

/-- An 8-bit datum, bit 7 the most significant (R7, R21). -/
abbrev Byte := BitVec 8

/-- A 14-bit memory address or program-counter value; its arithmetic is modulo 2^14 (R27, R29). -/
abbrev Addr := BitVec 14

end Sys2Proof
end

