-- ==== Sys2Proof/Syntax.lean ====
section
/-! DEFINITION. The abstract syntax of the U 808 D instruction set: one constructor for each row of
spec/opcode_table.json (47 numbered rows of Tafel 6, the recovered Nr. 35, the second HLT row, NOP). -/

namespace Sys2Proof

/-- The seven general registers, in the order of their 3-bit addresses (R20). -/
inductive Reg where
  | a | b | c | d | e | h | l
  deriving DecidableEq, Repr

/-- The four flags, in the order of their 2-bit addresses CC (R32). -/
inductive Flag where
  | cy | z | s | p
  deriving DecidableEq, Repr

/-- The eight arithmetic and logic operations, in the order of the field PPP (R73). -/
inductive AluOp where
  | add | adc | sub | sbb | ana | xra | ora | cmp
  deriving DecidableEq, Repr

/-- An instruction with its operands. Immediates and address operands are those of the bytes after the opcode byte
(R74, R76); don't-care bits are no part of an instruction (R88). -/
inductive Instr where
  /-- Nr. 1 MOV r1, r2 (R100). -/
  | movRR (dst src : Reg)
  /-- Nr. 2 MOV r, M (R101). -/
  | movRM (dst : Reg)
  /-- Nr. 3 MVI r, I (R102). -/
  | mviR (dst : Reg) (imm : Byte)
  /-- Nr. 4 MOV M, r (R103). -/
  | movMR (src : Reg)
  /-- Nr. 5 MVI M, I (R104). -/
  | mviM (imm : Byte)
  /-- Nr. 6 INC r, r not A (R110). -/
  | incR (dst : Reg)
  /-- Nr. 7 DCR r, r not A (R111). -/
  | dcrR (dst : Reg)
  /-- Nr. 8 RLC (R120). -/
  | rlc
  /-- Nr. 9 RRC (R121). -/
  | rrc
  /-- Nr. 10 RAL (R122). -/
  | ral
  /-- Nr. 11 RAR (R123). -/
  | rar
  /-- Nr. 12 ADD r (R131). -/
  | addR (src : Reg)
  /-- Nr. 13 ADD M (R132). -/
  | addM
  /-- Nr. 14 ADI I (R133). -/
  | adi (imm : Byte)
  /-- Nr. 15 ADC r (R134). -/
  | adcR (src : Reg)
  /-- Nr. 16 ADC M (R135). -/
  | adcM
  /-- Nr. 17 ACI I (R136). -/
  | aci (imm : Byte)
  /-- Nr. 18 SUB r (R141). -/
  | subR (src : Reg)
  /-- Nr. 19 SUB M (R142). -/
  | subM
  /-- Nr. 20 SUI I (R143). -/
  | sui (imm : Byte)
  /-- Nr. 21 SBB r (R144). -/
  | sbbR (src : Reg)
  /-- Nr. 22 SBB M (R145). -/
  | sbbM
  /-- Nr. 23 SBI I (R146). -/
  | sbi (imm : Byte)
  /-- Nr. 24 ANA r (R151). -/
  | anaR (src : Reg)
  /-- Nr. 25 ANA M (R152). -/
  | anaM
  /-- Nr. 26 ANI I (R153). -/
  | ani (imm : Byte)
  /-- Nr. 27 ORA r (R154). -/
  | oraR (src : Reg)
  /-- Nr. 28 ORA M (R155). -/
  | oraM
  /-- Nr. 29 ORI I (R156). -/
  | ori (imm : Byte)
  /-- Nr. 30 XRA r (R157). -/
  | xraR (src : Reg)
  /-- Nr. 31 XRA M (R158). -/
  | xraM
  /-- Nr. 32 XRI I (R159). -/
  | xri (imm : Byte)
  /-- Nr. 33 CMP r (R166). -/
  | cmpR (src : Reg)
  /-- Nr. 34 CMP M (R167). -/
  | cmpM
  /-- Nr. 35 CPI I, the recovered row (R86, R168). -/
  | cpi (imm : Byte)
  /-- Nr. 36 JMP I1 I2 (R175). -/
  | jmp (target : Addr)
  /-- Nr. 37 JFc I1 I2: jump if the flag is 0 (R176). -/
  | jf (cond : Flag) (target : Addr)
  /-- Nr. 38 JTc I1 I2: jump if the flag is 1 (R177). -/
  | jt (cond : Flag) (target : Addr)
  /-- Nr. 39 CALL I1 I2 (R180). -/
  | call (target : Addr)
  /-- Nr. 40 CFc I1 I2: call if the flag is 0 (R181). -/
  | cf (cond : Flag) (target : Addr)
  /-- Nr. 41 CTc I1 I2: call if the flag is 1 (R182). -/
  | ct (cond : Flag) (target : Addr)
  /-- Nr. 42 RET (R185). -/
  | ret
  /-- Nr. 43 RFc: return if the flag is 0 (R186). -/
  | rf (cond : Flag)
  /-- Nr. 44 RTc: return if the flag is 1 (R187). -/
  | rt (cond : Flag)
  /-- Nr. 45 RST AAA (R190). -/
  | rst (n : BitVec 3)
  /-- Nr. 46 IN MMM, ports 0 to 7 (R200). -/
  | inp (port : BitVec 3)
  /-- Nr. 47 OUT RRMMM, RR not 00: ports 8 to 31 (R202). -/
  | out (port : BitVec 5)
  /-- Nr. 48 HLT, first encoding 00 000 00X (R210). -/
  | hlt
  /-- Nr. 48 HLT, second encoding 11 111 111 (R212). -/
  | hltFF
  /-- The unnumbered row NOP: a second spelling of MOV A, A, with no decoding of its own (R213, R94). Log 12. -/
  | nop
  deriving DecidableEq, Repr

end Sys2Proof
end

