-- ==== Sys2Proof/Config.lean ====
section
/-! DEFINITION. What is fixed outside the program: the default of the OPEN parameter `STACK_DEPTH`, the values the model
names for reset, and the free values, which have no body. The OPEN parameters `mem_map` and `unassigned_opcode` are fields of
the state. -/

namespace Sys2Proof.Config

/-- Default number of return addresses the address stack holds (R6 `STACK_DEPTH`, R37, D3). Log 7. -/
def stackDepth : Nat := 7

/-- DESIGN CHOICE, unsafe (log 1): the value of every general register right after `State.reset`; R42 leaves it
unspecified. -/
def resetRegister : Byte := 0

/-- DESIGN CHOICE, unsafe (log 2): the value of every flag right after `State.reset`; R42 leaves it unspecified. -/
def resetFlag : Bool := false

/-- DESIGN CHOICE, unsafe (log 3): the value of every stack entry right after `State.reset`; R42 leaves it unspecified. -/
def resetStackEntry : Addr := 0

/-- FREE VALUE (log 4): the arbitrary but fixed byte a memory cell holds before anything has written it
(R66, D25, U8). No proof can see it. -/
opaque launchByte : Nat → Byte

/-- FREE VALUE (log 5): the byte the environment presents at an input port, chosen anew at each read; the first argument
counts the reads made so far (R201, D13, U10). No proof can see it. -/
opaque portByte : Nat → BitVec 3 → Byte

/-! FREE VALUES (log 9): what an unassigned opcode byte does where the OPEN parameter `unassigned_opcode` (R6, R85, D5) is not
`fault`. The first argument counts the unassigned bytes executed so far, the second is the byte. No proof can see them. -/

/-- The content of a register after the byte. -/
opaque unassignedRegister : Nat → Byte → Reg → Byte

/-- The value of a flag after the byte. -/
opaque unassignedFlag : Nat → Byte → Flag → Bool

/-- The program counter after the byte. -/
opaque unassignedPc : Nat → Byte → Addr

/-- The stack pointer after the byte, reduced to its range where it is used. -/
opaque unassignedPointer : Nat → Byte → Nat

/-- An entry of the address stack after the byte. -/
opaque unassignedEntry : Nat → Byte → Nat → Addr

/-- The memory write the byte makes, if any. -/
opaque unassignedStore : Nat → Byte → Option (Addr × Byte)

/-- The output event the byte makes, if any: the place of the port among the output ports 8 to 31, and the value. -/
opaque unassignedOutput : Nat → Byte → Option (Fin 24 × Byte)

end Sys2Proof.Config
end

