-- ==== Sys2Proof/Machine/State.lean ====
section
/-! DEFINITION. The state of the U 808 D (10_state R44), the reasons a step can stop, and the state right after reset. -/

namespace Sys2Proof.Machine

/-- The seven general registers, each its own storage (R20, R21, R24). -/
structure Regs where
  a : Byte
  b : Byte
  c : Byte
  d : Byte
  e : Byte
  h : Byte
  l : Byte
  deriving DecidableEq, Repr

/-- The four flags (R31). -/
structure Flags where
  cy : Bool
  z : Bool
  s : Bool
  p : Bool
  deriving DecidableEq, Repr

/-- What `mem_map` says of an address (R6, R60). -/
inductive MemKind where
  | ram | rom | none
  deriving DecidableEq, Repr

/-- One entry of `mem_map` as plain data: the addresses `first` to `last`, both included, are of this kind. -/
structure MapEntry where
  first : Addr
  last : Addr
  kind : MemKind
  deriving DecidableEq, Repr

/-- The OPEN parameter `unassigned_opcode` (R6, R85, D5). -/
inductive UnassignedOpcode where
  /-- The default: an unassigned opcode byte raises `IllegalOpcode` (R85). -/
  | fault
  /-- An unassigned opcode byte has an effect of its own of which nothing is known (log 9). -/
  | free
  deriving DecidableEq, Repr

/-- Memory as the cells that have been written, by rising address (log 4). -/
abbrev Memory := List Host.Cell

/-- The whole machine (R44), with four fields of the model's own: `memMap` and `unassigned`, the OPEN parameters of R60 and R85
carried as data (log 6, 9), and `portReads` and `unassignedRuns`, which pick the next free values (log 5, 9). -/
structure State where
  /-- A, B, C, D, E, H, L (R20). -/
  regs : Regs
  /-- Cy, Z, S, P (R31). -/
  flags : Flags
  /-- The program counter BZ (R27). -/
  pc : Addr
  /-- The stack pointer STP: the number of return addresses held (R36). -/
  stp : Nat
  /-- The address stack STACK; its length is the OPEN parameter STACK_DEPTH (R36, log 7). -/
  stack : List Addr
  /-- Set by HLT; while it is set there is no step (R38, R211). -/
  halted : Bool
  /-- The memory cells written so far or placed by the launch (R41). -/
  mem : Memory
  /-- The history of output events (port, value), oldest first (R44, R203). -/
  outputs : List (BitVec 5 × Byte)
  /-- The model's own: `mem_map` (R60); an address no entry covers is `ram`. No instruction writes it. -/
  memMap : List MapEntry
  /-- The model's own: how many input-port reads have been made (R201). -/
  portReads : Nat
  /-- The model's own: `unassigned_opcode` (R6, R85). No instruction writes it. -/
  unassigned : UnassignedOpcode
  /-- The model's own: how many unassigned opcode bytes have been executed (R85, log 9). -/
  unassignedRuns : Nat
  deriving DecidableEq, Repr

/-- Why `step` gives no next state. The first four are the model faults of R221; they correspond to no event of the
hardware, have no effect on the state (R222), and are safe: the model stops where the hardware goes on in a way the
spec does not know. -/
inductive Fault where
  /-- Raised by decode: the byte at the program counter is one of the six unassigned ones (R85, R221). A step answers it where
  `unassigned_opcode` is `fault`, the default. Safe (log 9). -/
  | illegalOpcode (b : Byte) (pc : Addr)
  /-- Raised by CALL, a taken conditional call and RST when the address stack is full (R37, R221). Safe (log 8). -/
  | stackOverflow (pc : Addr)
  /-- Raised by RET and a taken conditional return when the address stack is empty (R37, R221). Safe (log 8). -/
  | stackUnderflow (pc : Addr)
  /-- Raised by a memory access that `mem_map` forbids (R56, R57, R221); never under the default map. Safe (log 6). -/
  | unmappedAccess (addr : Addr)
  /-- Not a model fault of R221: the machine is halted, so there is no step; this is the normal end of a run
  (R15, R211). Raised by `step` only. Safe (log 10). -/
  | halted
  deriving DecidableEq, Repr

/-- Why an instruction is refused. Nothing raises it: every instruction has its meaning. -/
inductive Refusal where
  /-- Raised by an arm of `exec` whose instruction has no meaning yet. Safe; no arm raises it. -/
  | notModelled (mnemonic : String)
  deriving DecidableEq, Repr

/-- What a step answers. -/
abbrev Result := Host.Outcome State Fault Refusal

/-- The machine right after reset (R42, R250): `pc`, `stp` and `halted` as the spec's default; no memory cell written; the
default `mem_map` and
`unassigned_opcode`; registers, flags and stack entries, which the spec leaves unspecified, at the values the log names
(DESIGN CHOICE, unsafe: log 1, 2, 3). -/
def State.reset : State where
  regs := {
    a := Config.resetRegister, b := Config.resetRegister, c := Config.resetRegister, d := Config.resetRegister,
    e := Config.resetRegister, h := Config.resetRegister, l := Config.resetRegister }
  flags := {
    cy := Config.resetFlag, z := Config.resetFlag, s := Config.resetFlag, p := Config.resetFlag }
  pc := 0
  stp := 0
  stack := List.replicate Config.stackDepth Config.resetStackEntry
  halted := false
  mem := []
  outputs := []
  memMap := []
  portReads := 0
  unassigned := .fault
  unassignedRuns := 0

end Sys2Proof.Machine
end

