-- ==== Sys2Proof/Machine/Flags.lean ====
section
/-! DEFINITION. The flag computations (10_state R31, 43_add R130, 44_sub R140, 45_logic R150, 42_rotate) on plain values. -/

namespace Sys2Proof.Machine

/-- P = 1 exactly if the number of 1 bits is even (R9, R31). -/
def parityEven (v : Byte) : Bool :=
  !(v.getLsbD 0 ^^ v.getLsbD 1 ^^ v.getLsbD 2 ^^ v.getLsbD 3 ^^ v.getLsbD 4 ^^ v.getLsbD 5 ^^ v.getLsbD 6 ^^ v.getLsbD 7)

/-- `setZSP(v)` of R9: Z, S and P from an 8-bit result; Cy is kept. -/
def Flags.setZSP (f : Flags) (v : Byte) : Flags :=
  { f with z := v == 0, s := v.getLsbD 7, p := parityEven v }

/-- All four flags: the carry given, Z, S and P from the result (R130, R140, R150). -/
def Flags.ofResult (carry : Bool) (v : Byte) : Flags :=
  { cy := carry, z := v == 0, s := v.getLsbD 7, p := parityEven v }

/-- The value of one flag, `flag[cc]` (R32). -/
def Flags.get (f : Flags) : Flag → Bool
  | .cy => f.cy
  | .z => f.z
  | .s => f.s
  | .p => f.p

/-- The reduced sum of `add8` (R130). -/
def addResult (a v : Byte) (cin : Bool) : Byte := BitVec.ofNat 8 (a.toNat + v.toNat + cin.toNat)

/-- Cy after an addition: the unreduced sum exceeds 255 (R130). -/
def addCarry (a v : Byte) (cin : Bool) : Bool := decide (255 < a.toNat + v.toNat + cin.toNat)

/-- The reduced difference of `sub8`, the non-negative remainder modulo 256 (R140). -/
def subResult (a v : Byte) (bin : Bool) : Byte := BitVec.ofInt 8 ((a.toNat : Int) - v.toNat - bin.toNat)

/-- Cy after a subtraction or compare is the borrow: 1 exactly if `a < v + bin` (R140, D6, log 17). -/
def subBorrow (a v : Byte) (bin : Bool) : Bool := decide (a.toNat < v.toNat + bin.toNat)

end Sys2Proof.Machine
end

