-- ==== Sys2Proof/Machine/Ops.lean ====
section
/-! DEFINITION. The named operations over registers, memory, the address stack and the ports. The machine has no exception
entry and no return from one (60_exceptions R220, R228): the nearest, RST, shares `push` with CALL. -/

namespace Sys2Proof.Machine

/-! ### Registers -/

/-- `x[i]` (R9, R20). -/
def Regs.get (x : Regs) : Reg → Byte
  | .a => x.a
  | .b => x.b
  | .c => x.c
  | .d => x.d
  | .e => x.e
  | .h => x.h
  | .l => x.l

/-- `x[i] <- v` (R9, R20). -/
def Regs.set (x : Regs) (r : Reg) (v : Byte) : Regs :=
  match r with
  | .a => { x with a := v }
  | .b => { x with b := v }
  | .c => { x with c := v }
  | .d => { x with d := v }
  | .e => { x with e := v }
  | .h => { x with h := v }
  | .l => { x with l := v }

/-- The content of a register. -/
def State.reg (s : State) (r : Reg) : Byte := s.regs.get r

/-- The state with one register written. -/
def State.setReg (s : State) (r : Reg) (v : Byte) : State := { s with regs := s.regs.set r v }

/-- The value of a flag. -/
def State.flag (s : State) (c : Flag) : Bool := s.flags.get c

/-- The state with all four flags written. -/
def State.setFlags (s : State) (f : Flags) : State := { s with flags := f }

/-- The state with only the carry flag written. -/
def State.setCy (s : State) (b : Bool) : State := { s with flags := { s.flags with cy := b } }

/-! ### Program counter -/

/-- `pc <- t`. -/
def State.setPc (s : State) (t : Addr) : State := { s with pc := t }

/-- `pc <- (pc + len) mod 2^14` (R10, R29). -/
def State.advance (s : State) (len : Nat) : State := s.setPc (s.pc + BitVec.ofNat 14 len)

/-! ### Memory cells -/

/-- The byte stored at an address, if the cell has been written. -/
def Memory.read : Memory → Nat → Option Byte
  | [], _ => none
  | (k, v) :: m, a => if k = a then some v else Memory.read m a

/-- The memory with one byte stored; the list stays in rising order without repeats. -/
def Memory.write : Memory → Nat → Byte → Memory
  | [], a, v => [(a, v)]
  | (k, w) :: m, a, v =>
    if a < k then (a, v) :: (k, w) :: m
    else if a = k then (a, v) :: m
    else (k, w) :: Memory.write m a v

/-- Every address is at least `lo` and below 2^14, and addresses rise strictly. -/
def Memory.risingFrom : Nat → Memory → Bool
  | _, [] => true
  | lo, (k, _) :: m => decide (lo ≤ k) && decide (k < 2 ^ 14) && Memory.risingFrom (k + 1) m

/-- The canonical form: strictly rising addresses of the 2^14-byte space (R41). An unlisted cell holds no written byte, so no
entry can equal what it reads as (log 4). -/
def Memory.wf (m : Memory) : Bool := Memory.risingFrom 0 m

/-! ### Memory map and accesses -/

/-- The kind the first covering entry gives, `ram` if none covers the address (R60). -/
def kindIn : List MapEntry → Addr → MemKind
  | [], _ => .ram
  | e :: es, a => if e.first ≤ a ∧ a ≤ e.last then e.kind else kindIn es a

/-- `mem_map(addr)` (R60). -/
def State.kind (s : State) (a : Addr) : MemKind := kindIn s.memMap a

/-- A read of the address is allowed (R56). -/
def State.readable (s : State) (a : Addr) : Bool := s.kind a != .none

/-- A write of the address is allowed (R57). -/
def State.writable (s : State) (a : Addr) : Bool := s.kind a == .ram

/-- The content of a cell: the byte last written or placed there, else the free value of a cell nothing has written
(R61, R66, log 4). -/
def State.byteAt (s : State) (a : Addr) : Byte := (s.mem.read a.toNat).getD (Config.launchByte a.toNat)

/-- `MemRead(addr, 1)` (R56). -/
def State.loadByte (s : State) (a : Addr) : Except Fault Byte :=
  if s.readable a then .ok (s.byteAt a) else .error (.unmappedAccess a)

/-- The state with a cell overwritten, whatever the map says. -/
def State.poke (s : State) (a : Addr) (v : Byte) : State := { s with mem := Memory.write s.mem a.toNat v }

/-- `MemWrite(addr, 1, v)` (R57). -/
def State.storeByte (s : State) (a : Addr) (v : Byte) : Except Fault State :=
  if s.writable a then .ok (s.poke a v) else .error (.unmappedAccess a)

/-! ### Address stack -/

/-- `push(v)` (R37): write the entry, then move the pointer; a full stack is a model fault (log 8). -/
def State.push (s : State) (v : Addr) : Except Fault State :=
  if s.stp < s.stack.length then .ok { s with stack := s.stack.set s.stp v, stp := s.stp + 1 }
  else .error (.stackOverflow s.pc)

/-- `pop()` (R37): move the pointer, then read; an empty stack is a model fault (log 8). A pointer beyond the stack, which no
run reaches, faults likewise (log 22). -/
def State.pop (s : State) : Except Fault (Addr × State) :=
  match s.stp with
  | 0 => .error (.stackUnderflow s.pc)
  | n + 1 =>
    match s.stack[n]? with
    | some v => .ok (v, { s with stp := n })
    | none => .error (.stackUnderflow s.pc)

/-! ### Ports -/

/-- `PortRead(p)` (R201): the byte is a free value of this read (log 5). -/
def State.portRead (s : State) (p : BitVec 3) : Byte × State :=
  (Config.portByte s.portReads p, { s with portReads := s.portReads + 1 })

/-- `PortWrite(p, v)` (R203): the event is appended to the history. -/
def State.portWrite (s : State) (p : BitVec 5) (v : Byte) : State := { s with outputs := s.outputs ++ [(p, v)] }

/-! ### Sequencing -/

/-- Goes on with a value, or stops with the fault that stands in its place. -/
def orFault {α : Type} (x : Except Fault α) (k : α → Result) : Result :=
  match x with
  | .ok v => k v
  | .error f => .fault f

/-! ### Arithmetic and logic on the accumulator -/

/-- `add8(A, v, cin)` (R130): A and all four flags. -/
def State.add8 (s : State) (v : Byte) (cin : Bool) : State :=
  let r := addResult s.regs.a v cin
  (s.setReg .a r).setFlags (.ofResult (addCarry s.regs.a v cin) r)

/-- `sub8(A, v, bin, write_A)` (R140): all four flags, and A if asked. -/
def State.sub8 (s : State) (v : Byte) (bin writeA : Bool) : State :=
  let r := subResult s.regs.a v bin
  let t := s.setFlags (.ofResult (subBorrow s.regs.a v bin) r)
  if writeA then t.setReg .a r else t

/-- `compare8(v)` (R165): `sub8` that keeps A. -/
def State.compare8 (s : State) (v : Byte) : State := s.sub8 v false false

/-- `logic8` (R150) for the result `r`: A, Cy cleared, Z, S and P. -/
def State.logic8 (s : State) (r : Byte) : State := (s.setReg .a r).setFlags (.ofResult false r)

/-- A rotate (R124): A and Cy only. -/
def State.rotate (s : State) (r : Byte) (carry : Bool) : State := (s.setReg .a r).setCy carry

/-- INC and DCR (R110, R111, R112): the register, and Z, S, P from its new value; Cy is kept. -/
def State.countTo (s : State) (r : Reg) (v : Byte) : State := (s.setReg r v).setFlags (s.flags.setZSP v)

end Sys2Proof.Machine
end

