-- ==== Sys2Proof/Machine/Operands.lean ====
section
/-! DEFINITION. The operand forms: the memory operand M, and the taking of a transfer of control. A register operand is
`State.reg`; an immediate or an address operand is already in the instruction (30_encoding R74, R76). -/

namespace Sys2Proof.Machine

/-- `maddr()`: the low six bits of H above L; bits 7:6 of H take no part (R33, D2, log 16). -/
def State.maddr (s : State) : Addr := s.regs.h.extractLsb' 0 6 ++ s.regs.l

/-- Goes on with the memory byte M, read at `maddr()` (R33, R56). -/
def State.withM (s : State) (k : Byte → Result) : Result := orFault (s.loadByte s.maddr) k

/-- Stores a byte to M and goes on (R33, R57). -/
def State.storeM (s : State) (v : Byte) (k : State → Result) : Result := orFault (s.storeByte s.maddr v) k

/-- The condition of a conditional transfer: the flag equals the sense bit (R192). -/
def State.taken (s : State) (c : Flag) (sense : Bool) : Bool := s.flag c == sense

/-- Pushes the return address `pc + len` and goes to the target (R180, R190). -/
def State.callTo (s : State) (len : Nat) (target : Addr) : Result :=
  orFault (s.push (s.pc + BitVec.ofNat 14 len)) fun t => .next (t.setPc target)

/-- `pc <- pop()` (R185). -/
def State.returnFrom (s : State) : Result := orFault s.pop fun (v, t) => .next (t.setPc v)

/-- The restart target 8 * AAA (R77). -/
def restartAddr (n : BitVec 3) : Addr := (0 : BitVec 8) ++ n ++ (0 : BitVec 3)

/-- HLT: past its byte, then stopped (R210, R212, D9, log 13). -/
def State.halt (s : State) : State := { s.advance 1 with halted := true }

end Sys2Proof.Machine
end

