-- ==== Sys2Proof/Machine/Add.lean ====
section
/-! DEFINITION. Addition, Tafel 6 Nr. 12 to 17 (43_add R130 to R137): A and all four flags by `add8`. -/

namespace Sys2Proof.Machine

/-- ADD r (R131). -/
def execAddR (src : Reg) (s : State) : Result := .next ((s.add8 (s.reg src) false).advance 1)

/-- ADD M (R132). -/
def execAddM (s : State) : Result := s.withM fun v => .next ((s.add8 v false).advance 1)

/-- ADI I (R133). -/
def execAdi (imm : Byte) (s : State) : Result := .next ((s.add8 imm false).advance 2)

/-- ADC r (R134). -/
def execAdcR (src : Reg) (s : State) : Result := .next ((s.add8 (s.reg src) s.flags.cy).advance 1)

/-- ADC M (R135). -/
def execAdcM (s : State) : Result := s.withM fun v => .next ((s.add8 v s.flags.cy).advance 1)

/-- ACI I (R136). -/
def execAci (imm : Byte) (s : State) : Result := .next ((s.add8 imm s.flags.cy).advance 2)

end Sys2Proof.Machine
end

