-- ==== Sys2Proof/Machine/Compare.lean ====
section
/-! DEFINITION. Compare, Tafel 6 Nr. 33 to 35 (46_compare R165 to R169): the flags of A - operand, A kept. -/

namespace Sys2Proof.Machine

/-- CMP r (R166). -/
def execCmpR (src : Reg) (s : State) : Result := .next ((s.compare8 (s.reg src)).advance 1)

/-- CMP M (R167). -/
def execCmpM (s : State) : Result := s.withM fun v => .next ((s.compare8 v).advance 1)

/-- CPI I (R168). -/
def execCpi (imm : Byte) (s : State) : Result := .next ((s.compare8 imm).advance 2)

end Sys2Proof.Machine
end

