-- ==== Sys2Proof/Machine/Control.lean ====
section
/-! DEFINITION. Control transfer, Tafel 6 Nr. 36 to 45 (47_control R175 to R192): no flag and no register. -/

namespace Sys2Proof.Machine

/-- JMP (R175). -/
def execJmp (target : Addr) (s : State) : Result := .next (s.setPc target)

/-- JFc: jump if the flag is 0 (R176). -/
def execJf (cond : Flag) (target : Addr) (s : State) : Result :=
  if s.taken cond false then .next (s.setPc target) else .next (s.advance 3)

/-- JTc: jump if the flag is 1 (R177). -/
def execJt (cond : Flag) (target : Addr) (s : State) : Result :=
  if s.taken cond true then .next (s.setPc target) else .next (s.advance 3)

/-- CALL (R180). -/
def execCall (target : Addr) (s : State) : Result := s.callTo 3 target

/-- CFc: call if the flag is 0 (R181). -/
def execCf (cond : Flag) (target : Addr) (s : State) : Result :=
  if s.taken cond false then s.callTo 3 target else .next (s.advance 3)

/-- CTc: call if the flag is 1 (R182). -/
def execCt (cond : Flag) (target : Addr) (s : State) : Result :=
  if s.taken cond true then s.callTo 3 target else .next (s.advance 3)

/-- RET (R185). -/
def execRet (s : State) : Result := s.returnFrom

/-- RFc: return if the flag is 0 (R186). -/
def execRf (cond : Flag) (s : State) : Result :=
  if s.taken cond false then s.returnFrom else .next (s.advance 1)

/-- RTc: return if the flag is 1 (R187). -/
def execRt (cond : Flag) (s : State) : Result :=
  if s.taken cond true then s.returnFrom else .next (s.advance 1)

/-- RST: a one-byte call to 8 * AAA; it moves the stack pointer as CALL does (R190, D4, log 18). -/
def execRst (n : BitVec 3) (s : State) : Result := s.callTo 1 (restartAddr n)

end Sys2Proof.Machine
end

