-- ==== Sys2Proof/Machine/Halt.lean ====
section
/-! DEFINITION. Halt, Tafel 6 Nr. 48 in both encodings, and no-operation (49_halt_nop R210 to R213). -/

namespace Sys2Proof.Machine

/-- HLT, encoding 00 000 00X (R210). -/
def execHlt (s : State) : Result := .next s.halt

/-- HLT, encoding 11 111 111: exactly as R210 (R212). -/
def execHltFF (s : State) : Result := .next s.halt

/-- NOP: "Eigentlich: <A> := <A>" (R213). -/
def execNop (s : State) : Result := .next ((s.setReg .a (s.reg .a)).advance 1)

end Sys2Proof.Machine
end

