-- ==== Sys2Proof/Machine/IncDec.lean ====
section
/-! DEFINITION. Increment and decrement, Tafel 6 Nr. 6 and 7 (41_incdec R110 to R112): Z, S, P of the register, Cy kept (D7, log 17). -/

namespace Sys2Proof.Machine

/-- INC r (R110). -/
def execIncR (dst : Reg) (s : State) : Result := .next ((s.countTo dst (s.reg dst + 1)).advance 1)

/-- DCR r (R111): adds 255 modulo 256. -/
def execDcrR (dst : Reg) (s : State) : Result := .next ((s.countTo dst (s.reg dst + 255)).advance 1)

end Sys2Proof.Machine
end

