-- ==== Sys2Proof/Machine/Io.lean ====
section
/-! DEFINITION. Input and output, Tafel 6 Nr. 46 and 47 (48_io R200 to R204): no flag. -/

namespace Sys2Proof.Machine

/-- IN: A from an input port (R200, R201). -/
def execInp (port : BitVec 3) (s : State) : Result :=
  let (v, t) := s.portRead port
  .next ((t.setReg .a v).advance 1)

/-- OUT: A to an output port (R202, R203). -/
def execOut (port : BitVec 5) (s : State) : Result := .next ((s.portWrite port s.regs.a).advance 1)

end Sys2Proof.Machine
end

