-- ==== Sys2Proof/Machine/Load.lean ====
section
/-! DEFINITION. Load instructions, Tafel 6 Nr. 1 to 5 (40_load R100 to R105): no flag, no stack, no port. -/

namespace Sys2Proof.Machine

/-- MOV r1, r2 (R100). -/
def execMovRR (dst src : Reg) (s : State) : Result := .next ((s.setReg dst (s.reg src)).advance 1)

/-- MOV r, M (R101): the address is formed before the register is written. -/
def execMovRM (dst : Reg) (s : State) : Result := s.withM fun v => .next ((s.setReg dst v).advance 1)

/-- MVI r, I (R102). -/
def execMviR (dst : Reg) (imm : Byte) (s : State) : Result := .next ((s.setReg dst imm).advance 2)

/-- MOV M, r (R103). -/
def execMovMR (src : Reg) (s : State) : Result := s.storeM (s.reg src) fun t => .next (t.advance 1)

/-- MVI M, I (R104). -/
def execMviM (imm : Byte) (s : State) : Result := s.storeM imm fun t => .next (t.advance 2)

end Sys2Proof.Machine
end

