-- ==== Sys2Proof/Machine/Logic.lean ====
section
/-! DEFINITION. Logic, Tafel 6 Nr. 24 to 32 (45_logic R150 to R160): A, Cy cleared, Z, S, P by `logic8`; XRA is exclusive or (D8, log 17). -/

namespace Sys2Proof.Machine

/-- ANA r (R151). -/
def execAnaR (src : Reg) (s : State) : Result := .next ((s.logic8 (s.regs.a &&& (s.reg src))).advance 1)

/-- ANA M (R152). -/
def execAnaM (s : State) : Result := s.withM fun v => .next ((s.logic8 (s.regs.a &&& v)).advance 1)

/-- ANI I (R153). -/
def execAni (imm : Byte) (s : State) : Result := .next ((s.logic8 (s.regs.a &&& imm)).advance 2)

/-- ORA r (R154). -/
def execOraR (src : Reg) (s : State) : Result := .next ((s.logic8 (s.regs.a ||| (s.reg src))).advance 1)

/-- ORA M (R155). -/
def execOraM (s : State) : Result := s.withM fun v => .next ((s.logic8 (s.regs.a ||| v)).advance 1)

/-- ORI I (R156). -/
def execOri (imm : Byte) (s : State) : Result := .next ((s.logic8 (s.regs.a ||| imm)).advance 2)

/-- XRA r (R157). -/
def execXraR (src : Reg) (s : State) : Result := .next ((s.logic8 (s.regs.a ^^^ (s.reg src))).advance 1)

/-- XRA M (R158). -/
def execXraM (s : State) : Result := s.withM fun v => .next ((s.logic8 (s.regs.a ^^^ v)).advance 1)

/-- XRI I (R159). -/
def execXri (imm : Byte) (s : State) : Result := .next ((s.logic8 (s.regs.a ^^^ imm)).advance 2)

end Sys2Proof.Machine
end

