-- ==== Sys2Proof/Machine/Rotate.lean ====
section
/-! DEFINITION. Rotates of the accumulator, Tafel 6 Nr. 8 to 11 (42_rotate R120 to R124): A and Cy only. -/

namespace Sys2Proof.Machine

/-- RLC (R120): bit 7 goes to bit 0 and to Cy. -/
def execRlc (s : State) : Result :=
  let a := s.regs.a
  .next ((s.rotate (a.extractLsb' 0 7 ++ a.extractLsb' 7 1) (a.getLsbD 7)).advance 1)

/-- RRC (R121): bit 0 goes to bit 7 and to Cy. -/
def execRrc (s : State) : Result :=
  let a := s.regs.a
  .next ((s.rotate (a.extractLsb' 0 1 ++ a.extractLsb' 1 7) (a.getLsbD 0)).advance 1)

/-- RAL (R122): a 9-bit rotation to the left of Cy and A. -/
def execRal (s : State) : Result :=
  let a := s.regs.a
  .next ((s.rotate (a.extractLsb' 0 7 ++ BitVec.ofBool s.flags.cy) (a.getLsbD 7)).advance 1)

/-- RAR (R123): a 9-bit rotation to the right of Cy and A. -/
def execRar (s : State) : Result :=
  let a := s.regs.a
  .next ((s.rotate (BitVec.ofBool s.flags.cy ++ a.extractLsb' 1 7) (a.getLsbD 0)).advance 1)

end Sys2Proof.Machine
end

