-- ==== Sys2Proof/Machine/Sub.lean ====
section
/-! DEFINITION. Subtraction, Tafel 6 Nr. 18 to 23 (44_sub R140 to R147): A and all four flags by `sub8`; Cy is the borrow (D6, log 17). -/

namespace Sys2Proof.Machine

/-- SUB r (R141). -/
def execSubR (src : Reg) (s : State) : Result := .next ((s.sub8 (s.reg src) false true).advance 1)

/-- SUB M (R142). -/
def execSubM (s : State) : Result := s.withM fun v => .next ((s.sub8 v false true).advance 1)

/-- SUI I (R143). -/
def execSui (imm : Byte) (s : State) : Result := .next ((s.sub8 imm false true).advance 2)

/-- SBB r (R144). -/
def execSbbR (src : Reg) (s : State) : Result := .next ((s.sub8 (s.reg src) s.flags.cy true).advance 1)

/-- SBB M (R145). -/
def execSbbM (s : State) : Result := s.withM fun v => .next ((s.sub8 v s.flags.cy true).advance 1)

/-- SBI I (R146). -/
def execSbi (imm : Byte) (s : State) : Result := .next ((s.sub8 imm s.flags.cy true).advance 2)

end Sys2Proof.Machine
end

