-- ==== Sys2Proof/Machine/Dispatch.lean ====
section
/-! DEFINITION. One arm per constructor of `Instr`, each one call of its meaning. -/

namespace Sys2Proof.Machine

def exec (i : Instr) (s : State) : Host.Outcome State Fault Refusal :=
  match i with
  | .movRR dst src => Sys2Proof.Machine.execMovRR dst src s
  | .movRM dst => Sys2Proof.Machine.execMovRM dst s
  | .mviR dst imm => Sys2Proof.Machine.execMviR dst imm s
  | .movMR src => Sys2Proof.Machine.execMovMR src s
  | .mviM imm => Sys2Proof.Machine.execMviM imm s
  | .incR dst => Sys2Proof.Machine.execIncR dst s
  | .dcrR dst => Sys2Proof.Machine.execDcrR dst s
  | .rlc => Sys2Proof.Machine.execRlc s
  | .rrc => Sys2Proof.Machine.execRrc s
  | .ral => Sys2Proof.Machine.execRal s
  | .rar => Sys2Proof.Machine.execRar s
  | .addR src => Sys2Proof.Machine.execAddR src s
  | .addM => Sys2Proof.Machine.execAddM s
  | .adi imm => Sys2Proof.Machine.execAdi imm s
  | .adcR src => Sys2Proof.Machine.execAdcR src s
  | .adcM => Sys2Proof.Machine.execAdcM s
  | .aci imm => Sys2Proof.Machine.execAci imm s
  | .subR src => Sys2Proof.Machine.execSubR src s
  | .subM => Sys2Proof.Machine.execSubM s
  | .sui imm => Sys2Proof.Machine.execSui imm s
  | .sbbR src => Sys2Proof.Machine.execSbbR src s
  | .sbbM => Sys2Proof.Machine.execSbbM s
  | .sbi imm => Sys2Proof.Machine.execSbi imm s
  | .anaR src => Sys2Proof.Machine.execAnaR src s
  | .anaM => Sys2Proof.Machine.execAnaM s
  | .ani imm => Sys2Proof.Machine.execAni imm s
  | .oraR src => Sys2Proof.Machine.execOraR src s
  | .oraM => Sys2Proof.Machine.execOraM s
  | .ori imm => Sys2Proof.Machine.execOri imm s
  | .xraR src => Sys2Proof.Machine.execXraR src s
  | .xraM => Sys2Proof.Machine.execXraM s
  | .xri imm => Sys2Proof.Machine.execXri imm s
  | .cmpR src => Sys2Proof.Machine.execCmpR src s
  | .cmpM => Sys2Proof.Machine.execCmpM s
  | .cpi imm => Sys2Proof.Machine.execCpi imm s
  | .jmp target => Sys2Proof.Machine.execJmp target s
  | .jf cond target => Sys2Proof.Machine.execJf cond target s
  | .jt cond target => Sys2Proof.Machine.execJt cond target s
  | .call target => Sys2Proof.Machine.execCall target s
  | .cf cond target => Sys2Proof.Machine.execCf cond target s
  | .ct cond target => Sys2Proof.Machine.execCt cond target s
  | .ret => Sys2Proof.Machine.execRet s
  | .rf cond => Sys2Proof.Machine.execRf cond s
  | .rt cond => Sys2Proof.Machine.execRt cond s
  | .rst n => Sys2Proof.Machine.execRst n s
  | .inp port => Sys2Proof.Machine.execInp port s
  | .out port => Sys2Proof.Machine.execOut port s
  | .hlt => Sys2Proof.Machine.execHlt s
  | .hltFF => Sys2Proof.Machine.execHltFF s
  | .nop => Sys2Proof.Machine.execNop s

end Sys2Proof.Machine
end

