-- ==== Sys2Proof/WellFormed.lean ====
section
/-! DEFINITION. Which terms of `Instr` are instructions: the constraints of the opcode table that the types do not carry. -/

namespace Sys2Proof

/-- The constraints on operands: INC and DCR exclude A ("r ≠ A", R110, R111, R112); OUT has RR ≠ 00, so its port is 8 to 31
(R202, R204). Every other operand field admits every value. -/
def Instr.wellFormed : Instr → Bool
  | .incR r => r != .a
  | .dcrR r => r != .a
  | .out p => decide (8 ≤ p.toNat)
  | .movRR _ _ | .movRM _ | .mviR _ _ | .movMR _ | .mviM _ => true
  | .rlc | .rrc | .ral | .rar => true
  | .addR _ | .addM | .adi _ | .adcR _ | .adcM | .aci _ => true
  | .subR _ | .subM | .sui _ | .sbbR _ | .sbbM | .sbi _ => true
  | .anaR _ | .anaM | .ani _ | .oraR _ | .oraM | .ori _ | .xraR _ | .xraM | .xri _ => true
  | .cmpR _ | .cmpM | .cpi _ => true
  | .jmp _ | .jf _ _ | .jt _ _ | .call _ | .cf _ _ | .ct _ _ => true
  | .ret | .rf _ | .rt _ | .rst _ | .inp _ | .hlt | .hltFF | .nop => true

/-- `i` is an instruction of the U 808 D. -/
abbrev Instr.WellFormed (i : Instr) : Prop := i.wellFormed = true

end Sys2Proof
end

