-- ==== Sys2Proof/Decode.lean ====
section
/-! DEFINITION. The decoder, total on byte lists (30_encoding R80, R81), and after it the encoder, written from the encoding
column of the table (R82, R83, R87). -/

namespace Sys2Proof

/-! ### Fields -/

/-- Bits 7:6 of the opcode byte, the group (R71). -/
def fieldG (b : Byte) : BitVec 2 := b.extractLsb' 6 2

/-- Bits 5:3 of the opcode byte (R71). -/
def fieldY (b : Byte) : BitVec 3 := b.extractLsb' 3 3

/-- Bits 2:0 of the opcode byte (R71). -/
def fieldZ (b : Byte) : BitVec 3 := b.extractLsb' 0 3

/-- Register addresses DDD and SSS; 111 names no register (R20, R22). -/
def Reg.ofCode (c : BitVec 3) : Option Reg :=
  match c.toNat with
  | 0 => some .a
  | 1 => some .b
  | 2 => some .c
  | 3 => some .d
  | 4 => some .e
  | 5 => some .h
  | 6 => some .l
  | _ => none

/-- Flag addresses CC (R32). -/
def Flag.ofCode (c : BitVec 2) : Flag :=
  match c.toNat with
  | 0 => .cy
  | 1 => .z
  | 2 => .s
  | _ => .p

/-- Operation codes PPP (R73). -/
def AluOp.ofCode (c : BitVec 3) : AluOp :=
  match c.toNat with
  | 0 => .add
  | 1 => .adc
  | 2 => .sub
  | 3 => .sbb
  | 4 => .ana
  | 5 => .xra
  | 6 => .ora
  | _ => .cmp

/-- The register form 10 PPP SSS (R87). -/
def AluOp.regInstr : AluOp → Reg → Instr
  | .add, r => .addR r
  | .adc, r => .adcR r
  | .sub, r => .subR r
  | .sbb, r => .sbbR r
  | .ana, r => .anaR r
  | .xra, r => .xraR r
  | .ora, r => .oraR r
  | .cmp, r => .cmpR r

/-- The M form 10 PPP 111 (R87). -/
def AluOp.memInstr : AluOp → Instr
  | .add => .addM
  | .adc => .adcM
  | .sub => .subM
  | .sbb => .sbbM
  | .ana => .anaM
  | .xra => .xraM
  | .ora => .oraM
  | .cmp => .cmpM

/-- The immediate form 00 PPP 100 (R82; for CMP the recovered row Nr. 35, R86, log 19). -/
def AluOp.immInstr : AluOp → Byte → Instr
  | .add, v => .adi v
  | .adc, v => .aci v
  | .sub, v => .sui v
  | .sbb, v => .sbi v
  | .ana, v => .ani v
  | .xra, v => .xri v
  | .ora, v => .ori v
  | .cmp, v => .cpi v

/-- The address operand: the low six bits of I2 above I1; bits 7:6 of I2 are ignored (R50, R76, R178). -/
def joinAddr (i1 i2 : Byte) : Addr := i2.extractLsb' 0 6 ++ i1

/-! ### Decoding -/

/-- What an opcode byte announces: the format (R70) and the instruction its operand bytes complete. -/
inductive Head where
  /-- Format F1: no operand byte. -/
  | f1 (i : Instr)
  /-- Format F2: one immediate byte I. -/
  | f2 (build : Byte → Instr)
  /-- Format F3: two bytes I1, I2 that form an address. -/
  | f3 (build : Addr → Instr)

/-- Group 00 (R80, R82): `none` for 0x38, 0x39 and 00 1XX 010 (R85). -/
def decodeGroup0 (y z : BitVec 3) : Option Head :=
  match z.toNat with
  | 0 =>
    match Reg.ofCode y with
    | some .a => some (.f1 .hlt)
    | some r => some (.f1 (.incR r))
    | none => none
  | 1 =>
    match Reg.ofCode y with
    | some .a => some (.f1 .hlt)
    | some r => some (.f1 (.dcrR r))
    | none => none
  | 2 =>
    match y.toNat with
    | 0 => some (.f1 .rlc)
    | 1 => some (.f1 .rrc)
    | 2 => some (.f1 .ral)
    | 3 => some (.f1 .rar)
    | _ => none
  | 3 =>
    let c := Flag.ofCode (y.extractLsb' 0 2)
    some (.f1 (if y.getLsbD 2 then .rt c else .rf c))
  | 4 => some (.f2 (AluOp.ofCode y).immInstr)
  | 5 => some (.f1 (.rst y))
  | 6 =>
    match Reg.ofCode y with
    | some r => some (.f2 (.mviR r))
    | none => some (.f2 .mviM)
  | _ => some (.f1 .ret)

/-- Group 01 (R80, R83): ports on odd bytes, jumps and calls on even ones. -/
def decodeGroup1 (b : Byte) (y z : BitVec 3) : Head :=
  if b.getLsbD 0 then
    if b.extractLsb' 4 2 = 0 then .f1 (.inp (b.extractLsb' 1 3)) else .f1 (.out (b.extractLsb' 1 5))
  else
    let c := Flag.ofCode (y.extractLsb' 0 2)
    match z.toNat with
    | 0 => .f3 (if y.getLsbD 2 then .jt c else .jf c)
    | 2 => .f3 (if y.getLsbD 2 then .ct c else .cf c)
    | 4 => .f3 .jmp
    | _ => .f3 .call

/-- Group 10 (R80, R87): the register and M forms of the eight operations. -/
def decodeGroup2 (y z : BitVec 3) : Head :=
  match Reg.ofCode z with
  | some r => .f1 ((AluOp.ofCode y).regInstr r)
  | none => .f1 (AluOp.ofCode y).memInstr

/-- Group 11 (R80, R87): the moves, and HLT at 0xFF (R212). 0xC0 is MOV A, A (R213, R89). -/
def decodeGroup3 (y z : BitVec 3) : Head :=
  match Reg.ofCode y, Reg.ofCode z with
  | some dst, some src => .f1 (.movRR dst src)
  | some dst, none => .f1 (.movRM dst)
  | none, some src => .f1 (.movMR src)
  | none, none => .f1 .hltFF

/-- The opcode map (R80, R84): `none` exactly for the six unassigned bytes of R85. -/
def decodeHead (b : Byte) : Option Head :=
  match (fieldG b).toNat with
  | 0 => decodeGroup0 (fieldY b) (fieldZ b)
  | 1 => some (decodeGroup1 b (fieldY b) (fieldZ b))
  | 2 => some (decodeGroup2 (fieldY b) (fieldZ b))
  | _ => some (decodeGroup3 (fieldY b) (fieldZ b))

/-- Why bytes are not an instruction. -/
inductive DecodeError where
  /-- The opcode byte is one of the six the source gives no meaning (R85). -/
  | unassigned (b : Byte)
  /-- There are fewer bytes than the opcode byte asks for. -/
  | truncated
  deriving DecidableEq, Repr

/-- Reads one instruction off the front of `bytes` and gives the bytes after it. -/
def decode (bytes : List Byte) : Except DecodeError (Instr × List Byte) :=
  match bytes with
  | [] => .error .truncated
  | b :: rest =>
    match decodeHead b with
    | none => .error (.unassigned b)
    | some (.f1 i) => .ok (i, rest)
    | some (.f2 build) =>
      match rest with
      | i1 :: after => .ok (build i1, after)
      | [] => .error .truncated
    | some (.f3 build) =>
      match rest with
      | i1 :: i2 :: after => .ok (build (joinAddr i1 i2), after)
      | _ => .error .truncated

/-- The length rule of R81, from the opcode byte alone. -/
def lengthOfOpcode (b : Byte) : Nat :=
  if fieldG b = 1 ∧ b.getLsbD 0 = false then 3
  else if fieldG b = 0 ∧ (fieldZ b = 4 ∨ fieldZ b = 6) then 2
  else 1

/-- Byte `k` of a table word: bits 8k+7 .. 8k of its low `nbits` bits (the first byte is the low one). -/
def tableByte (nbits w k : Nat) : Byte := BitVec.ofNat 8 (w % 2 ^ nbits / 256 ^ k)

/-- The instruction the decoder reads from a word numbered as spec/opcode_table.json numbers bits; the bits above `nbits`
are 0. -/
def decodeTableWord (nbits w : Nat) : Option Instr :=
  match decode [tableByte nbits w 0, tableByte nbits w 1, tableByte nbits w 2] with
  | .ok (i, _) => some i
  | .error _ => none

/-! ### Encoding -/

/-- The 3-bit address of a register (R20). -/
def Reg.code : Reg → BitVec 3
  | .a => 0
  | .b => 1
  | .c => 2
  | .d => 3
  | .e => 4
  | .h => 5
  | .l => 6

/-- The 2-bit address of a flag (R32). -/
def Flag.code : Flag → BitVec 2
  | .cy => 0
  | .z => 1
  | .s => 2
  | .p => 3

/-- An opcode byte from its three fields g, y, z (R71). -/
def opcode (g : BitVec 2) (y z : BitVec 3) : Byte := g ++ y ++ z

/-- An opcode byte with a sense bit and a flag address in bits 5:3 (R192). -/
def condOpcode (g : BitVec 2) (sense : BitVec 1) (c : Flag) (z : BitVec 3) : Byte := opcode g (sense ++ c.code) z

/-- The bytes I1, I2 of an address operand, with bits 7:6 of I2 written as 0 (R76, R88). -/
def addrBytes (t : Addr) : List Byte := [t.extractLsb' 0 8, (0 : BitVec 2) ++ t.extractLsb' 8 6]

/-- The bytes of an instruction, from the column "Codierung"; don't-care bits are 0 (R88, D17, log 14). -/
def encode : Instr → List Byte
  | .movRR dst src => [opcode 3 dst.code src.code]
  | .movRM dst => [opcode 3 dst.code 7]
  | .mviR dst imm => [opcode 0 dst.code 6, imm]
  | .movMR src => [opcode 3 7 src.code]
  | .mviM imm => [opcode 0 7 6, imm]
  | .incR dst => [opcode 0 dst.code 0]
  | .dcrR dst => [opcode 0 dst.code 1]
  | .rlc => [opcode 0 0 2]
  | .rrc => [opcode 0 1 2]
  | .ral => [opcode 0 2 2]
  | .rar => [opcode 0 3 2]
  | .addR src => [opcode 2 0 src.code]
  | .addM => [opcode 2 0 7]
  | .adi imm => [opcode 0 0 4, imm]
  | .adcR src => [opcode 2 1 src.code]
  | .adcM => [opcode 2 1 7]
  | .aci imm => [opcode 0 1 4, imm]
  | .subR src => [opcode 2 2 src.code]
  | .subM => [opcode 2 2 7]
  | .sui imm => [opcode 0 2 4, imm]
  | .sbbR src => [opcode 2 3 src.code]
  | .sbbM => [opcode 2 3 7]
  | .sbi imm => [opcode 0 3 4, imm]
  | .anaR src => [opcode 2 4 src.code]
  | .anaM => [opcode 2 4 7]
  | .ani imm => [opcode 0 4 4, imm]
  | .oraR src => [opcode 2 6 src.code]
  | .oraM => [opcode 2 6 7]
  | .ori imm => [opcode 0 6 4, imm]
  | .xraR src => [opcode 2 5 src.code]
  | .xraM => [opcode 2 5 7]
  | .xri imm => [opcode 0 5 4, imm]
  | .cmpR src => [opcode 2 7 src.code]
  | .cmpM => [opcode 2 7 7]
  | .cpi imm => [opcode 0 7 4, imm]
  | .jmp t => opcode 1 0 4 :: addrBytes t
  | .jf c t => condOpcode 1 0 c 0 :: addrBytes t
  | .jt c t => condOpcode 1 1 c 0 :: addrBytes t
  | .call t => opcode 1 0 6 :: addrBytes t
  | .cf c t => condOpcode 1 0 c 2 :: addrBytes t
  | .ct c t => condOpcode 1 1 c 2 :: addrBytes t
  | .ret => [opcode 0 0 7]
  | .rf c => [condOpcode 0 0 c 3]
  | .rt c => [condOpcode 0 1 c 3]
  | .rst n => [opcode 0 n 5]
  | .inp p => [(2 : BitVec 3) ++ (0 : BitVec 1) ++ p ++ (1 : BitVec 1)]
  | .out p => [(1 : BitVec 2) ++ p ++ (1 : BitVec 1)]
  | .hlt => [opcode 0 0 0]
  | .hltFF => [opcode 3 7 7]
  | .nop => [opcode 3 0 0]

/-- The length of an instruction in bytes (R70). -/
def Instr.length (i : Instr) : Nat := (encode i).length

/-- The instruction that the word of `i` is: NOP is a spelling of MOV A, A and has no decoding of its own (R213, R96); every
other instruction is itself. -/
def Instr.core : Instr → Instr
  | .nop => .movRR .a .a
  | i => i

/-- The don't-care bits of an instruction set to 0, as an assembler writes them (R88): bits 5:3 of JMP, CALL and RET, bit 0
of the first HLT, bits 7:6 of the third byte of a format F3 instruction. -/
def clearDontCares (bytes : List Byte) : List Byte :=
  match bytes with
  | [] => []
  | b :: rest =>
    let b' :=
      if fieldG b = 1 ∧ (fieldZ b = 4 ∨ fieldZ b = 6) then opcode 1 0 (fieldZ b)
      else if fieldG b = 0 ∧ fieldZ b = 7 then opcode 0 0 7
      else if b = 1 then 0
      else b
    match rest with
    | [i1, i2] => [b', i1, (0 : BitVec 2) ++ i2.extractLsb' 0 6]
    | _ => b' :: rest

end Sys2Proof
end

