-- ==== Sys2Proof/Machine/Fetch.lean ====
section
/-! DEFINITION. Fetching an instruction (00_scope R10, 20_memory R51, R53) and placing one (00_scope R17). -/

namespace Sys2Proof.Machine

/-- Reads the operand bytes the format asks for, in address order, and completes the instruction (R53, R81, R178). -/
def State.fetchOperands (s : State) : Head → Except Fault Instr
  | .f1 i => .ok i
  | .f2 build =>
    match s.loadByte (s.pc + 1) with
    | .error f => .error f
    | .ok i1 => .ok (build i1)
  | .f3 build =>
    match s.loadByte (s.pc + 1) with
    | .error f => .error f
    | .ok i1 =>
      match s.loadByte (s.pc + 2) with
      | .error f => .error f
      | .ok i2 => .ok (build (joinAddr i1 i2))

/-- The instruction at the program counter, with the faults in the order of R227: the opcode fetch, the unassigned byte, the
operand bytes. A halted machine fetches nothing (R211). -/
def State.fetch (s : State) : Except Fault Instr :=
  if s.halted then .error .halted
  else
    match s.loadByte s.pc with
    | .error f => .error f
    | .ok b =>
      match decodeHead b with
      | none => .error (.illegalOpcode b s.pc)
      | some h => s.fetchOperands h

/-- The map with an address made readable, unchanged where it is readable already. -/
def ensureReadable (m : List MapEntry) (a : Addr) : List MapEntry :=
  match kindIn m a with
  | .none => { first := a, last := a, kind := .ram } :: m
  | _ => m

/-- The state with a byte placed by the environment where the next fetch reads it (R17, log 20). -/
def State.place (s : State) (a : Addr) (v : Byte) : State :=
  { s.poke a v with memMap := ensureReadable s.memMap a }

/-- The state with the three bytes of a table word at `pc`, `pc + 1` and `pc + 2`, ready to run (R17, R51, log 20). -/
def State.placeWord (s : State) (nbits w : Nat) : State :=
  let t := { s with halted := false }
  ((t.place t.pc (tableByte nbits w 0)).place (t.pc + 1) (tableByte nbits w 1)).place (t.pc + 2) (tableByte nbits w 2)

end Sys2Proof.Machine
end

