-- ==== Sys2Proof/Machine/Unassigned.lean ====
section
/-! DEFINITION. The six unassigned opcode bytes at each value of the OPEN parameter `unassigned_opcode` (30_encoding R85, D5,
log 9). They are no rows of the table, so no constructor of `Instr` stands for them. -/

namespace Sys2Proof.Machine

/-- The registers after an unassigned byte, each a free value (log 9). -/
def Regs.ofUnassigned (n : Nat) (b : Byte) : Regs where
  a := Config.unassignedRegister n b .a
  b := Config.unassignedRegister n b .b
  c := Config.unassignedRegister n b .c
  d := Config.unassignedRegister n b .d
  e := Config.unassignedRegister n b .e
  h := Config.unassignedRegister n b .h
  l := Config.unassignedRegister n b .l

/-- The flags after an unassigned byte, each a free value (log 9). -/
def Flags.ofUnassigned (n : Nat) (b : Byte) : Flags where
  cy := Config.unassignedFlag n b .cy
  z := Config.unassignedFlag n b .z
  s := Config.unassignedFlag n b .s
  p := Config.unassignedFlag n b .p

/-- The output event of an unassigned byte, if any, at one of the output ports 8 to 31 (R41, log 9). -/
def unassignedEvents (n : Nat) (b : Byte) : List (BitVec 5 × Byte) :=
  match Config.unassignedOutput n b with
  | none => []
  | some (p, v) => [(BitVec.ofNat 5 (8 + p.val), v)]

/-- The state an unassigned byte leaves, its memory write apart: registers, flags, program counter, stack pointer and stack
entries are free values. The pointer stays in its range and the depth stays STACK_DEPTH (R36, R37), and the machine is not halted
by it (R15, R38, D5). -/
def State.afterUnassigned (s : State) (b : Byte) : State :=
  { s with
    regs := .ofUnassigned s.unassignedRuns b
    flags := .ofUnassigned s.unassignedRuns b
    pc := Config.unassignedPc s.unassignedRuns b
    stp := Config.unassignedPointer s.unassignedRuns b % (s.stack.length + 1)
    stack := (List.range s.stack.length).map (Config.unassignedEntry s.unassignedRuns b)
    outputs := s.outputs ++ unassignedEvents s.unassignedRuns b
    unassignedRuns := s.unassignedRuns + 1 }

/-- The free effect of an unassigned byte: at most one memory write, which the map may forbid (R57), and the free values of
`afterUnassigned`. DESIGN CHOICE (log 9), the spec being silent: after its opcode fetch the byte makes no operand or data read that
the map could forbid (R56, R221), so its write alone can raise UnmappedAccess; it makes no counted read of an input port, at most
one memory write and at most one output event. Unsafe in these bounds. -/
def State.runUnassigned (s : State) (b : Byte) : Result :=
  match Config.unassignedStore s.unassignedRuns b with
  | none => .next (s.afterUnassigned b)
  | some (a, v) => orFault ((s.afterUnassigned b).storeByte a v) .next

/-- An unassigned byte at `pc`, as `unassigned_opcode` says (R6, R85). -/
def State.unassignedByte (s : State) (b : Byte) : Result :=
  match s.unassigned with
  | .fault => .fault (.illegalOpcode b s.pc)
  | .free => s.runUnassigned b

/-- What a step does where the fetch answers no instruction: the fault, but for an unassigned byte, of which the parameter
decides (R85, R227). -/
def State.onFetchFault (s : State) : Fault → Result
  | .illegalOpcode b _ => s.unassignedByte b
  | .stackOverflow pc => .fault (.stackOverflow pc)
  | .stackUnderflow pc => .fault (.stackUnderflow pc)
  | .unmappedAccess a => .fault (.unmappedAccess a)
  | .halted => .fault .halted

end Sys2Proof.Machine
end

