-- ==== Sys2Proof/Machine/Step.lean ====
section
/-! DEFINITION. One step of the machine (00_scope R10). -/

namespace Sys2Proof.Machine

/-- Fetches the instruction at the program counter and runs it; a halted machine has no step (R10, R211), and an unassigned
opcode byte does what `unassigned_opcode` says (R6, R85). -/
def step (s : State) : Host.Outcome State Fault Refusal :=
  match s.fetch with
  | .error f => s.onFetchFault f
  | .ok i => exec i s

/-- `s` with the table word `w` placed where `step` fetches next (log 20). -/
def State.withFetchWord (s : State) (nbits w : Nat) : State := s.placeWord nbits w

end Sys2Proof.Machine
end

