-- ==== Sys2Proof/Machine/Mnemonics.lean ====
section
/-! DEFINITION. The two mnemonic notations of Tafel 6 (00_scope R3, 30_encoding R90 to R94). They are a help for the programmer
and no part of the machine: no meaning reads them. -/

namespace Sys2Proof

/-- The letter of a register (R20). -/
def Reg.letter : Reg → String
  | .a => "A"
  | .b => "B"
  | .c => "C"
  | .d => "D"
  | .e => "E"
  | .h => "H"
  | .l => "L"

/-- The letter of a flag (R32). -/
def Flag.letter : Flag → String
  | .cy => "C"
  | .z => "Z"
  | .s => "S"
  | .p => "P"

/-- The condition names of notation A (R92): first for a flag that must be 0, then for one that must be 1. -/
def Flag.condA (c : Flag) (sense : Bool) : String :=
  match c, sense with
  | .cy, false => "NC"
  | .cy, true => "C"
  | .z, false => "NZ"
  | .z, true => "Z"
  | .s, false => "P"
  | .s, true => "M"
  | .p, false => "PO"
  | .p, true => "PE"

/-- The mnemonic of notation A without its operands (R91, R92). -/
def nameA : Instr → String
  | .movRR _ _ | .movRM _ | .movMR _ => "MOV"
  | .mviR _ _ | .mviM _ => "MVI"
  | .incR _ => "INC"
  | .dcrR _ => "DCR"
  | .rlc => "RLC"
  | .rrc => "RRC"
  | .ral => "RAL"
  | .rar => "RAR"
  | .addR _ | .addM => "ADD"
  | .adi _ => "ADI"
  | .adcR _ | .adcM => "ADC"
  | .aci _ => "ACI"
  | .subR _ | .subM => "SUB"
  | .sui _ => "SUI"
  | .sbbR _ | .sbbM => "SBB"
  | .sbi _ => "SBI"
  | .anaR _ | .anaM => "ANA"
  | .ani _ => "ANI"
  | .oraR _ | .oraM => "ORA"
  | .ori _ => "ORI"
  | .xraR _ | .xraM => "XRA"
  | .xri _ => "XRI"
  | .cmpR _ | .cmpM => "CMP"
  | .cpi _ => "CPI"
  | .jmp _ => "JMP"
  | .jf c _ => "J" ++ c.condA false
  | .jt c _ => "J" ++ c.condA true
  | .call _ => "CALL"
  | .cf c _ => "C" ++ c.condA false
  | .ct c _ => "C" ++ c.condA true
  | .ret => "RET"
  | .rf c => "R" ++ c.condA false
  | .rt c => "R" ++ c.condA true
  | .rst _ => "RST"
  | .inp _ => "IN"
  | .out _ => "OUT"
  | .hlt | .hltFF => "HLT"
  | .nop => "NOP"

/-- The register, M and port operands of notation A in the order written, destination first (R91, R93); immediates and
address bytes follow as numbers. -/
def operandsA : Instr → List String
  | .movRR dst src => [dst.letter, src.letter]
  | .movRM dst => [dst.letter, "M"]
  | .mviR dst _ => [dst.letter]
  | .movMR src => ["M", src.letter]
  | .mviM _ => ["M"]
  | .incR r | .dcrR r => [r.letter]
  | .addR r | .adcR r | .subR r | .sbbR r | .anaR r | .oraR r | .xraR r | .cmpR r => [r.letter]
  | .addM | .adcM | .subM | .sbbM | .anaM | .oraM | .xraM | .cmpM => ["M"]
  | .rst n => [toString n.toNat]
  | .inp p => [toString p.toNat]
  | .out p => [toString p.toNat]
  | .adi _ | .aci _ | .sui _ | .sbi _ | .ani _ | .ori _ | .xri _ | .cpi _ => []
  | .jmp _ | .jf _ _ | .jt _ _ | .call _ | .cf _ _ | .ct _ _ => []
  | .rlc | .rrc | .ral | .rar | .ret | .rf _ | .rt _ | .hlt | .hltFF | .nop => []

/-- The bytes a program writes after the mnemonic as I, or as I1 and I2 (R91, R93). -/
def numbersA (i : Instr) : List Byte := (encode i).drop 1

/-- The mnemonic of notation B, always three letters, with the register letters part of it (R91, R92); NOP has none. -/
def nameB : Instr → Option String
  | .movRR dst src => some ("L" ++ dst.letter ++ src.letter)
  | .movRM dst => some ("L" ++ dst.letter ++ "M")
  | .mviR dst _ => some ("L" ++ dst.letter ++ "I")
  | .movMR src => some ("LM" ++ src.letter)
  | .mviM _ => some "LMI"
  | .incR r => some ("IN" ++ r.letter)
  | .dcrR r => some ("DC" ++ r.letter)
  | .rlc => some "RLC"
  | .rrc => some "RRC"
  | .ral => some "RAL"
  | .rar => some "RAR"
  | .addR r => some ("AD" ++ r.letter)
  | .addM => some "ADM"
  | .adi _ => some "ADI"
  | .adcR r => some ("AC" ++ r.letter)
  | .adcM => some "ACM"
  | .aci _ => some "ACI"
  | .subR r => some ("SU" ++ r.letter)
  | .subM => some "SUM"
  | .sui _ => some "SUI"
  | .sbbR r => some ("SB" ++ r.letter)
  | .sbbM => some "SBM"
  | .sbi _ => some "SBI"
  | .anaR r => some ("ND" ++ r.letter)
  | .anaM => some "NDM"
  | .ani _ => some "NDI"
  | .oraR r => some ("OR" ++ r.letter)
  | .oraM => some "ORM"
  | .ori _ => some "ORI"
  | .xraR r => some ("XR" ++ r.letter)
  | .xraM => some "XRM"
  | .xri _ => some "XRI"
  | .cmpR r => some ("CP" ++ r.letter)
  | .cmpM => some "CPM"
  | .cpi _ => some "CPI"
  | .jmp _ => some "JMP"
  | .jf c _ => some ("JF" ++ c.letter)
  | .jt c _ => some ("JT" ++ c.letter)
  | .call _ => some "CAL"
  | .cf c _ => some ("CF" ++ c.letter)
  | .ct c _ => some ("CT" ++ c.letter)
  | .ret => some "RET"
  | .rf c => some ("RF" ++ c.letter)
  | .rt c => some ("RT" ++ c.letter)
  | .rst _ => some "RST"
  | .inp _ => some "INP"
  | .out _ => some "OUT"
  | .hlt | .hltFF => some "HLT"
  | .nop => none

end Sys2Proof
end

