-- ==== Sys2Proof/Machine/Effects.lean ====
section
/-! DEFINITION. The spec's tables of what an instruction may write and read (10_state R23, R34, R35, R39; 20_memory R53), as
functions of the instruction. No meaning reads them; the statements compare the meanings with them. -/

namespace Sys2Proof.Machine

/-- The register an instruction writes (R23). -/
def regWritten : Instr → Option Reg
  | .movRR dst _ | .movRM dst | .mviR dst _ | .incR dst | .dcrR dst => some dst
  | .rlc | .rrc | .ral | .rar => some .a
  | .addR _ | .addM | .adi _ | .adcR _ | .adcM | .aci _ => some .a
  | .subR _ | .subM | .sui _ | .sbbR _ | .sbbM | .sbi _ => some .a
  | .anaR _ | .anaM | .ani _ | .oraR _ | .oraM | .ori _ | .xraR _ | .xraM | .xri _ => some .a
  | .inp _ => some .a
  | .movMR _ | .mviM _ | .cmpR _ | .cmpM | .cpi _ => none
  | .jmp _ | .jf _ _ | .jt _ _ | .call _ | .cf _ _ | .ct _ _ | .ret | .rf _ | .rt _ | .rst _ => none
  | .out _ | .hlt | .hltFF | .nop => none

/-- The flags an instruction writes (R34). -/
def flagsWritten : Instr → List Flag
  | .incR _ | .dcrR _ => [.z, .s, .p]
  | .rlc | .rrc | .ral | .rar => [.cy]
  | .addR _ | .addM | .adi _ | .adcR _ | .adcM | .aci _ => [.cy, .z, .s, .p]
  | .subR _ | .subM | .sui _ | .sbbR _ | .sbbM | .sbi _ => [.cy, .z, .s, .p]
  | .anaR _ | .anaM | .ani _ | .oraR _ | .oraM | .ori _ | .xraR _ | .xraM | .xri _ => [.cy, .z, .s, .p]
  | .cmpR _ | .cmpM | .cpi _ => [.cy, .z, .s, .p]
  | .movRR _ _ | .movRM _ | .mviR _ _ | .movMR _ | .mviM _ => []
  | .jmp _ | .jf _ _ | .jt _ _ | .call _ | .cf _ _ | .ct _ _ | .ret | .rf _ | .rt _ | .rst _ => []
  | .inp _ | .out _ | .hlt | .hltFF | .nop => []

/-- The flags an instruction reads (R35). -/
def flagsRead : Instr → List Flag
  | .adcR _ | .adcM | .aci _ | .sbbR _ | .sbbM | .sbi _ | .ral | .rar => [.cy]
  | .jf c _ | .jt c _ | .cf c _ | .ct c _ | .rf c | .rt c => [c]
  | .movRR _ _ | .movRM _ | .mviR _ _ | .movMR _ | .mviM _ | .incR _ | .dcrR _ | .rlc | .rrc => []
  | .addR _ | .addM | .adi _ | .subR _ | .subM | .sui _ => []
  | .anaR _ | .anaM | .ani _ | .oraR _ | .oraM | .ori _ | .xraR _ | .xraM | .xri _ => []
  | .cmpR _ | .cmpM | .cpi _ => []
  | .jmp _ | .call _ | .ret | .rst _ | .inp _ | .out _ | .hlt | .hltFF | .nop => []

/-- The instruction is a call or a restart, taken or conditional (R36, R39). -/
def mayPush : Instr → Bool
  | .call _ | .cf _ _ | .ct _ _ | .rst _ => true
  | _ => false

/-- The instruction is a return, taken or conditional (R36, R39). -/
def mayPop : Instr → Bool
  | .ret | .rf _ | .rt _ => true
  | _ => false

/-- The instruction stores to memory: MOV M, r and MVI M, I only (R41, R53). -/
def storesToM : Instr → Bool
  | .movMR _ | .mviM _ => true
  | _ => false

/-- The instruction is a jump, call, return, restart or halt: the exceptions of R10 to the sequential advance. -/
def transfersControl : Instr → Bool
  | .jmp _ | .jf _ _ | .jt _ _ | .call _ | .cf _ _ | .ct _ _ | .ret | .rf _ | .rt _ | .rst _ | .hlt | .hltFF => true
  | _ => false

/-- The instruction pushes in this state: an unconditional call or restart, or a conditional call that is taken (R180 to
R182, R190). -/
def pushes (i : Instr) (s : State) : Bool :=
  match i with
  | .call _ | .rst _ => true
  | .cf c _ => s.taken c false
  | .ct c _ => s.taken c true
  | _ => false

/-- The instruction pops in this state: RET, or a conditional return that is taken (R185 to R187). -/
def pops (i : Instr) (s : State) : Bool :=
  match i with
  | .ret => true
  | .rf c => s.taken c false
  | .rt c => s.taken c true
  | _ => false

/-- One memory or port access (R53). -/
inductive Access where
  | fetch (a : Addr)
  | read (a : Addr)
  | write (a : Addr)
  | portIn (p : BitVec 3)
  | portOut (p : BitVec 5)
  deriving DecidableEq, Repr

/-- The accesses of an instruction standing at `pc`, in the order they are made (R53). Both address bytes of a conditional
transfer are read whether or not it is taken (D21). -/
def accesses (i : Instr) (s : State) : List Access :=
  match i with
  | .movRM _ | .addM | .adcM | .subM | .sbbM | .anaM | .oraM | .xraM | .cmpM => [.fetch s.pc, .read s.maddr]
  | .mviR _ _ | .adi _ | .aci _ | .sui _ | .sbi _ | .ani _ | .xri _ | .ori _ | .cpi _ => [.fetch s.pc, .read (s.pc + 1)]
  | .movMR _ => [.fetch s.pc, .write s.maddr]
  | .mviM _ => [.fetch s.pc, .read (s.pc + 1), .write s.maddr]
  | .jmp _ | .call _ | .jf _ _ | .jt _ _ | .cf _ _ | .ct _ _ => [.fetch s.pc, .read (s.pc + 1), .read (s.pc + 2)]
  | .inp p => [.fetch s.pc, .portIn p]
  | .out p => [.fetch s.pc, .portOut p]
  | .movRR _ _ | .incR _ | .dcrR _ | .rlc | .rrc | .ral | .rar => [.fetch s.pc]
  | .addR _ | .adcR _ | .subR _ | .sbbR _ | .anaR _ | .oraR _ | .xraR _ | .cmpR _ => [.fetch s.pc]
  | .ret | .rf _ | .rt _ | .rst _ | .hlt | .hltFF | .nop => [.fetch s.pc]

/-- The address an access forbids itself by: `some a` if `mem_map` denies it at `a`, `none` if it is allowed (R56, R57). -/
def deniedAt (s : State) : Access → Option Addr
  | .fetch a | .read a => if s.readable a then none else some a
  | .write a => if s.writable a then none else some a
  | .portIn _ | .portOut _ => none

end Sys2Proof.Machine
end

