-- ==== Sys2Proof/Machine/Timing.lean ====
section
/-! DEFINITION. The two timing columns of Tafel 6, transcribed (70_reset_and_hazards R261). No meaning reads them and no
architectural result depends on them (R260); a state has no duration (R262, log 15). -/

namespace Sys2Proof.Machine

/-- The kinds of machine cycle (R12, R261): instruction fetch, memory read, memory write, port transfer. -/
inductive Cycle where
  | pci | pcr | pcw | pcc
  deriving DecidableEq, Repr

/-- The column "Zyklen". -/
def cycles : Instr → List Cycle
  | .movRR _ _ | .incR _ | .dcrR _ | .rlc | .rrc | .ral | .rar => [.pci]
  | .addR _ | .adcR _ | .subR _ | .sbbR _ | .anaR _ | .oraR _ | .xraR _ | .cmpR _ => [.pci]
  | .ret | .rf _ | .rt _ | .rst _ | .hlt | .hltFF | .nop => [.pci]
  | .movRM _ | .addM | .adcM | .subM | .sbbM | .anaM | .oraM | .xraM | .cmpM => [.pci, .pcr]
  | .mviR _ _ | .adi _ | .aci _ | .sui _ | .sbi _ | .ani _ | .ori _ | .xri _ | .cpi _ => [.pci, .pcr]
  | .movMR _ => [.pci, .pcw]
  | .mviM _ => [.pci, .pcr, .pcw]
  | .jmp _ | .jf _ _ | .jt _ _ | .call _ | .cf _ _ | .ct _ _ => [.pci, .pcr, .pcr]
  | .inp _ | .out _ => [.pci, .pcc]

/-- The column "Anzahl Zustände"; a conditional transfer takes the first of its two numbers if taken (R261). -/
def stateCount (i : Instr) (s : State) : Nat :=
  match i with
  | .movRR _ _ | .incR _ | .dcrR _ | .rlc | .rrc | .ral | .rar => 5
  | .addR _ | .adcR _ | .subR _ | .sbbR _ | .anaR _ | .oraR _ | .xraR _ | .cmpR _ => 5
  | .ret | .rst _ | .nop => 5
  | .movRM _ | .mviR _ _ => 8
  | .addM | .adcM | .subM | .sbbM | .anaM | .oraM | .xraM | .cmpM => 8
  | .adi _ | .aci _ | .sui _ | .sbi _ | .ani _ | .ori _ | .xri _ | .cpi _ => 8
  | .movMR _ => 7
  | .mviM _ => 9
  | .jmp _ | .call _ => 11
  | .jf c _ | .cf c _ => if s.taken c false then 11 else 9
  | .jt c _ | .ct c _ => if s.taken c true then 11 else 9
  | .rf c => if s.taken c false then 5 else 3
  | .rt c => if s.taken c true then 5 else 3
  | .inp _ => 8
  | .out _ => 6
  | .hlt | .hltFF => 4

/-- The cycle kind of an access (R53). -/
def Access.cycle : Access → Cycle
  | .fetch _ => .pci
  | .read _ => .pcr
  | .write _ => .pcw
  | .portIn _ | .portOut _ => .pcc

end Sys2Proof.Machine
end

