-- ==== Sys2Proof/Safety.lean ====
section
/-! DEFINITION. What counts as a well-kept state, a final state and a safe run, and the words the statements are written in. -/

namespace Sys2Proof.Machine

/-! ### States and runs -/

/-- The invariant of the model: memory is in its canonical form, the stack pointer is in 0..STACK_DEPTH (R36), and every
recorded output event names an output port, 8 to 31 (R41, R203). -/
structure State.Inv (s : State) : Prop where
  memory : s.mem.wf = true
  pointer : s.stp ≤ s.stack.length
  ports : ∀ e ∈ s.outputs, 8 ≤ e.1.toNat

/-- A final state: HLT has been executed (R15, R211). -/
def State.Final (s : State) : Prop := s.halted = true

/-- One of the four model faults of R221, as against the end of a run. -/
def Fault.isModelFault : Fault → Bool
  | .halted => false
  | _ => true

/-- `t` is reached from `s` in exactly `n` steps. -/
def Reaches : Nat → State → State → Prop
  | 0, s, t => s = t
  | n + 1, s, t => ∃ u, step s = .next u ∧ Reaches n u t

/-- No model fault is raised in the runs from `s` (R222: a claim about a program takes "no fault" as a premise or proves
it). -/
def Safe (s : State) : Prop := ∀ n t f, Reaches n s t → step t = .fault f → f.isModelFault = false

/-- A state the spec admits right after reset and launch (R17, R42, R251): `pc`, `stp` and `halted` as R42 gives them, nothing
output yet, and every draw of registers, flags, stack entries and memory. `State.reset` is one of them (log 1, 2, 3). -/
structure State.ResetDraw (s : State) : Prop where
  pc : s.pc = 0
  stp : s.stp = 0
  running : s.halted = false
  outputs : s.outputs = []
  memory : s.mem.wf = true

/-- The bytes the next instruction can consist of: those at `pc`, `pc + 1` and `pc + 2` (R51). -/
def State.window (s : State) : List Byte := [s.byteAt s.pc, s.byteAt (s.pc + 1), s.byteAt (s.pc + 2)]

/-! ### Words of the statements -/

/-- How many of the eight bits are 1. -/
def onesCount (v : Byte) : Nat := ((List.range 8).filter fun j => v.getLsbD j).length

/-- Z, S and P are those of the 8-bit value `v`, in the words of R31. -/
def ZspOf (f : Flags) (v : Byte) : Prop :=
  (f.z = true ↔ v = 0) ∧ (f.s = true ↔ v.getLsbD 7 = true) ∧ (f.p = true ↔ onesCount v % 2 = 0)

/-- Every register but `r` is unchanged. -/
def OtherRegsKept (s t : State) (r : Reg) : Prop := ∀ r', r' ≠ r → t.reg r' = s.reg r'

/-- The machine runs and these bytes stand, readable, at `pc`, `pc + 1`, ... modulo 2^14 (R29, R51). -/
def State.StandsAt (s : State) (bytes : List Byte) : Prop :=
  s.halted = false ∧ ∀ k b, bytes[k]? = some b →
    s.readable (s.pc + BitVec.ofNat 14 k) = true ∧ s.byteAt (s.pc + BitVec.ofNat 14 k) = b

/-- A row of Tafel 6: the bytes decode to `i` whatever follows them, a machine that runs with those bytes at `pc` executes `i`,
and `i` has these cycles. -/
def Row (bytes : List Byte) (i : Instr) (c : List Cycle) : Prop :=
  (∀ rest, decode (bytes ++ rest) = .ok (i, rest)) ∧ (∀ s : State, s.StandsAt bytes → step s = exec i s) ∧ cycles i = c

/-- `i` completes in `s`, A becomes the sum modulo 256 of A, `v` and the carry-in, all four flags are those of the sum (R130),
`pc` moves by `len`, and nothing else changes. -/
def AddsTo (i : Instr) (s : State) (v : Byte) (cin : Bool) (len : Nat) : Prop :=
  ∃ t, exec i s = .next t ∧
    (t.reg .a).toNat = ((s.reg .a).toNat + v.toNat + cin.toNat) % 256 ∧
    (t.flag .cy = true ↔ 255 < (s.reg .a).toNat + v.toNat + cin.toNat) ∧
    ZspOf t.flags (t.reg .a) ∧ OtherRegsKept s t .a ∧
    t = { s with regs := t.regs, flags := t.flags, pc := s.pc + BitVec.ofNat 14 len }

/-- `i` completes in `s`, A becomes the difference modulo 256 of A, `v` and the borrow-in, Cy is the borrow and Z, S, P are
those of the difference (R140), `pc` moves by `len`, and nothing else changes. -/
def SubtractsTo (i : Instr) (s : State) (v : Byte) (bin : Bool) (len : Nat) : Prop :=
  ∃ t, exec i s = .next t ∧
    ((t.reg .a).toNat : Int) = (((s.reg .a).toNat : Int) - v.toNat - bin.toNat) % 256 ∧
    (t.flag .cy = true ↔ (s.reg .a).toNat < v.toNat + bin.toNat) ∧
    ZspOf t.flags (t.reg .a) ∧ OtherRegsKept s t .a ∧
    t = { s with regs := t.regs, flags := t.flags, pc := s.pc + BitVec.ofNat 14 len }

/-- `i` completes in `s`, each bit of A becomes `op` of the bits of A and `v`, Cy becomes 0 and Z, S, P are those of the new A
(R150, R160), `pc` moves by `len`, and nothing else changes. -/
def CombinesTo (op : Bool → Bool → Bool) (i : Instr) (s : State) (v : Byte) (len : Nat) : Prop :=
  ∃ t, exec i s = .next t ∧
    (∀ j, j < 8 → (t.reg .a).getLsbD j = op ((s.reg .a).getLsbD j) (v.getLsbD j)) ∧
    t.flag .cy = false ∧ ZspOf t.flags (t.reg .a) ∧ OtherRegsKept s t .a ∧
    t = { s with regs := t.regs, flags := t.flags, pc := s.pc + BitVec.ofNat 14 len }

/-- `i` completes in `s`, the four flags are those of the difference of A and `v`, `pc` moves by `len`, and nothing else, A
included, changes (R165). -/
def ComparesTo (i : Instr) (s : State) (v : Byte) (len : Nat) : Prop :=
  ∃ t d, exec i s = .next t ∧
    ((d : Byte).toNat : Int) = (((s.reg .a).toNat : Int) - v.toNat) % 256 ∧
    (t.flag .cy = true ↔ (s.reg .a).toNat < v.toNat) ∧ ZspOf t.flags d ∧
    t = { s with flags := t.flags, pc := s.pc + BitVec.ofNat 14 len }

/-- `i` completes in `s`, A's bits become those given, Cy becomes `carry`, Z, S and P are kept (R124), `pc` moves by 1, and
nothing else changes. -/
def RotatesTo (i : Instr) (s : State) (bit : Nat → Bool) (carry : Bool) : Prop :=
  ∃ t, exec i s = .next t ∧ (∀ j, j < 8 → (t.reg .a).getLsbD j = bit j) ∧ OtherRegsKept s t .a ∧
    t = { s with regs := t.regs, flags := { s.flags with cy := carry }, pc := s.pc + 1 }

/-- `i` completes in `s` and stores `v` at `a`: the cell reads `v`, every other cell reads as before, `pc` moves by `len`, and
nothing else changes. -/
def StoresTo (i : Instr) (s : State) (a : Addr) (v : Byte) (len : Nat) : Prop :=
  ∃ t, exec i s = .next t ∧ t.byteAt a = v ∧ (∀ a', a' ≠ a → t.byteAt a' = s.byteAt a') ∧
    t = { s with mem := t.mem, pc := s.pc + BitVec.ofNat 14 len }

/-- `i` completes in `s` by a push (R37): the return address stands in the entry the pointer named, every other entry is as
before, the pointer moves up by one, control goes to the target, and nothing else changes. -/
def CallsTo (i : Instr) (s : State) (ret target : Addr) : Prop :=
  ∃ t, exec i s = .next t ∧ t.stack[s.stp]? = some ret ∧ (∀ k, k ≠ s.stp → t.stack[k]? = s.stack[k]?) ∧
    t = { s with stack := t.stack, stp := s.stp + 1, pc := target }

/-- `i` completes in `s` by a pop (R37): the pointer moves down by one, control goes to the entry it then names, and nothing
else changes. -/
def ReturnsIn (i : Instr) (s : State) : Prop :=
  ∃ v, s.stack[s.stp - 1]? = some v ∧ exec i s = .next { s with stp := s.stp - 1, pc := v }

end Sys2Proof.Machine
end

