-- ==== Sys2Proof/Certificates/Slice0/Obligations.lean ====
section
/-! DEFINITION. The statements for the provers. A statement speaks of every state, so of every memory map, every stack depth,
either value of `unassigned_opcode`, every content of registers, flags, memory and stack, and every byte an input port may present. -/

open Sys2Proof Sys2Proof.Machine

/-! ### Encoding and decoding -/

/-- Decoding the encoding of any instruction gives the instruction back, with every operand at every value and whatever bytes
follow; for NOP it gives MOV A, A, whose word it is (30_encoding R80, R84, R96, R213). -/
def Obligations.DecodeOfEncodeIsTheInstruction : Prop :=
  ∀ (i : Instr) (rest : List Byte), i.WellFormed → decode (encode i ++ rest) = .ok (i.core, rest)

/-- The bytes an instruction was decoded from are its encoding, but for the don't-care bits of R88: so two byte strings that
decode to one instruction differ in don't-care bits only. -/
def Obligations.EncodeOfDecodeIsTheBytesButDontCares : Prop :=
  ∀ (bytes rest : List Byte) (i : Instr), decode bytes = .ok (i, rest) →
    ∃ used, bytes = used ++ rest ∧ clearDontCares used = encode i

/-- Whatever the decoder reads is an instruction: never INC A, DCR A, an OUT to ports 0 to 7 (R110, R111, R112, R202), and
never the second spelling NOP (R213). -/
def Obligations.DecodedInstructionIsWellFormed : Prop :=
  ∀ (bytes rest : List Byte) (i : Instr), decode bytes = .ok (i, rest) → i.WellFormed ∧ i ≠ .nop

/-- R81: the length of an instruction is decided by its opcode byte alone, 3, 2 or 1. -/
def Obligations.OpcodeByteAloneDecidesTheLength : Prop :=
  ∀ (b : Byte) (after rest : List Byte) (i : Instr), decode (b :: after) = .ok (i, rest) →
    (b :: after).length = rest.length +
      (if b.extractLsb' 6 2 = 1 ∧ b.getLsbD 0 = false then 3
       else if b.extractLsb' 6 2 = 0 ∧ (b.extractLsb' 0 3 = 4 ∨ b.extractLsb' 0 3 = 6) then 2
       else 1)

/-- R88: bits 5:3 of JMP, CALL and RET, bit 0 of the first HLT and bits 7:6 of the third byte of every F3 instruction have no
effect on decoding, and the encoder writes them as 0 (the spec's own decision D17, log 14). HLT has the two constructors of
its two rows; they behave identically. -/
def Obligations.DontCareBitsAreIgnoredAndWrittenZero : Prop :=
  (∀ (x : BitVec 3) (i1 i2 : Byte) (rest : List Byte),
      decode (opcode 1 x 4 :: i1 :: i2 :: rest) = .ok (.jmp (i2.extractLsb' 0 6 ++ i1), rest) ∧
      decode (opcode 1 x 6 :: i1 :: i2 :: rest) = .ok (.call (i2.extractLsb' 0 6 ++ i1), rest) ∧
      decode (opcode 0 x 7 :: rest) = .ok (.ret, rest)) ∧
  (∀ rest : List Byte, decode (0x00 :: rest) = .ok (.hlt, rest) ∧ decode (0x01 :: rest) = .ok (.hlt, rest) ∧
      decode (0xFF :: rest) = .ok (.hltFF, rest)) ∧
  (∀ s : State, exec .hltFF s = exec .hlt s) ∧
  (∀ (b i1 i2 : Byte) (x : BitVec 2) (rest : List Byte), b.extractLsb' 6 2 = 1 → b.getLsbD 0 = false →
      decode (b :: i1 :: (x ++ i2.extractLsb' 0 6) :: rest) = decode (b :: i1 :: i2 :: rest)) ∧
  (∀ t : Addr, (encode (.jmp t)).head? = some 0x44 ∧ (encode (.call t)).head? = some 0x46) ∧
  encode .ret = [0x07] ∧ encode .hlt = [0x00] ∧
  (∀ (i : Instr) (b i1 i2 : Byte), encode i = [b, i1, i2] → i2.extractLsb' 6 2 = 0)

/-- R85: exactly the six opcode bytes 0x22, 0x2A, 0x32, 0x3A, 0x38, 0x39 are unassigned, whatever follows them. That a running
machine which fetches one stops with the model fault IllegalOpcode(b, pc) where `unassigned_opcode` is `fault`, the default,
is the spec's own decision D5 (log 9); R227 puts the fault of the opcode fetch itself first (log 6). -/
def Obligations.ExactlySixOpcodeBytesAreIllegal : Prop :=
  (∀ (b : Byte) (after : List Byte), decode (b :: after) = .error (.unassigned b) ↔
      b ∈ ([0x22, 0x2A, 0x32, 0x3A, 0x38, 0x39] : List Byte)) ∧
  State.reset.unassigned = .fault ∧
  (∀ s : State, s.halted = false → s.byteAt s.pc ∈ ([0x22, 0x2A, 0x32, 0x3A, 0x38, 0x39] : List Byte) →
      (s.readable s.pc = false → step s = .fault (.unmappedAccess s.pc)) ∧
      (s.readable s.pc = true → s.unassigned = .fault → step s = .fault (.illegalOpcode (s.byteAt s.pc) s.pc)))

/-- R6, R85: where the OPEN parameter `unassigned_opcode` is not `fault`, an unassigned byte has an effect of which nothing is
known (D5); the form of the free value and its bounds are the model's own choice (log 9, DESIGN CHOICE): but for its opcode fetch
it reads nothing the map could forbid and no input port, and makes at most one memory write and one output event. Unless the map
forbids that write, the step completes; the machine is not halted by it (D5), the parameters are kept, the pointer is in its
range, every byte of memory but the one written is kept, and the event, if any, is at a port 8 to 31. -/
def Obligations.UnassignedByteHasAFreeEffectIfTheParameterSaysSo : Prop :=
  ∀ s : State, s.halted = false → s.readable s.pc = true →
    s.byteAt s.pc ∈ ([0x22, 0x2A, 0x32, 0x3A, 0x38, 0x39] : List Byte) → s.unassigned = .free →
    let wrote := Config.unassignedStore s.unassignedRuns (s.byteAt s.pc)
    (∀ a v, wrote = some (a, v) → s.writable a = false → step s = .fault (.unmappedAccess a)) ∧
    ((∀ a v, wrote = some (a, v) → s.writable a = true) →
      ∃ t, step s = .next t ∧ t.halted = false ∧ t.memMap = s.memMap ∧ t.unassigned = .free ∧
        t.unassignedRuns = s.unassignedRuns + 1 ∧ t.portReads = s.portReads ∧ t.stack.length = s.stack.length ∧
        t.stp ≤ t.stack.length ∧ t.pc = Config.unassignedPc s.unassignedRuns (s.byteAt s.pc) ∧
        (∀ r, t.reg r = Config.unassignedRegister s.unassignedRuns (s.byteAt s.pc) r) ∧
        (∀ c, t.flag c = Config.unassignedFlag s.unassignedRuns (s.byteAt s.pc) c) ∧
        (∀ a v, wrote = some (a, v) → t.byteAt a = v) ∧
        (∀ a, (∀ v, wrote ≠ some (a, v)) → t.byteAt a = s.byteAt a) ∧
        (t.outputs = s.outputs ∨ ∃ p v, t.outputs = s.outputs ++ [(p, v)] ∧ 8 ≤ p.toNat))

/-- The worked examples of the source, E1 to E6 of 95_test_vectors, decode to the instructions they stand for. -/
def Obligations.SourceExamplesDecode : Prop :=
  decode [0b11001011] = .ok (.movRR .b .d, []) ∧
  decode [0b00110000] = .ok (.incR .l, []) ∧
  decode [0b10000100] = .ok (.addR .e, []) ∧
  decode [0b00100100, 0b11110000] = .ok (.ani 0b11110000, []) ∧
  decode [0b10111010] = .ok (.cmpR .c, []) ∧
  decode [0b01101000, 0b01100110, 0b00000000] = .ok (.jt .z 102, [])

/-- Notation B in full, as R91 and R92 resolve it (C4, C6, C7, C9, log 25): every row's spelling, with the register letters part
of it; always three letters; NOP has none. -/
def Obligations.NotationBIsThreeLetters : Prop :=
  nameB .nop = none ∧
  (∀ i : Instr, i ≠ .nop → ∃ name, nameB i = some name ∧ name.length = 3) ∧
  (Reg.a.letter = "A" ∧ Reg.b.letter = "B" ∧ Reg.c.letter = "C" ∧ Reg.d.letter = "D" ∧ Reg.e.letter = "E" ∧
    Reg.h.letter = "H" ∧ Reg.l.letter = "L") ∧
  (∀ (r r2 : Reg) (v : Byte),
    nameB (.movRR r r2) = some ("L" ++ r.letter ++ r2.letter) ∧ nameB (.movRM r) = some ("L" ++ r.letter ++ "M") ∧
    nameB (.mviR r v) = some ("L" ++ r.letter ++ "I") ∧ nameB (.movMR r) = some ("LM" ++ r.letter) ∧
    nameB (.mviM v) = some "LMI" ∧ nameB (.incR r) = some ("IN" ++ r.letter) ∧ nameB (.dcrR r) = some ("DC" ++ r.letter)) ∧
  (nameB .rlc = some "RLC" ∧ nameB .rrc = some "RRC" ∧ nameB .ral = some "RAL" ∧ nameB .rar = some "RAR") ∧
  (∀ (r : Reg) (v : Byte),
    nameB (.addR r) = some ("AD" ++ r.letter) ∧ nameB .addM = some "ADM" ∧ nameB (.adi v) = some "ADI" ∧
    nameB (.adcR r) = some ("AC" ++ r.letter) ∧ nameB .adcM = some "ACM" ∧ nameB (.aci v) = some "ACI" ∧
    nameB (.subR r) = some ("SU" ++ r.letter) ∧ nameB .subM = some "SUM" ∧ nameB (.sui v) = some "SUI" ∧
    nameB (.sbbR r) = some ("SB" ++ r.letter) ∧ nameB .sbbM = some "SBM" ∧ nameB (.sbi v) = some "SBI" ∧
    nameB (.anaR r) = some ("ND" ++ r.letter) ∧ nameB .anaM = some "NDM" ∧ nameB (.ani v) = some "NDI" ∧
    nameB (.oraR r) = some ("OR" ++ r.letter) ∧ nameB .oraM = some "ORM" ∧ nameB (.ori v) = some "ORI" ∧
    nameB (.xraR r) = some ("XR" ++ r.letter) ∧ nameB .xraM = some "XRM" ∧ nameB (.xri v) = some "XRI" ∧
    nameB (.cmpR r) = some ("CP" ++ r.letter) ∧ nameB .cmpM = some "CPM" ∧ nameB (.cpi v) = some "CPI") ∧
  (∀ t : Addr,
    nameB (.jmp t) = some "JMP" ∧ nameB (.call t) = some "CAL" ∧
    nameB (.jf .cy t) = some "JFC" ∧ nameB (.jf .z t) = some "JFZ" ∧ nameB (.jf .s t) = some "JFS" ∧
    nameB (.jf .p t) = some "JFP" ∧ nameB (.jt .cy t) = some "JTC" ∧ nameB (.jt .z t) = some "JTZ" ∧
    nameB (.jt .s t) = some "JTS" ∧ nameB (.jt .p t) = some "JTP" ∧
    nameB (.cf .cy t) = some "CFC" ∧ nameB (.cf .z t) = some "CFZ" ∧ nameB (.cf .s t) = some "CFS" ∧
    nameB (.cf .p t) = some "CFP" ∧ nameB (.ct .cy t) = some "CTC" ∧ nameB (.ct .z t) = some "CTZ" ∧
    nameB (.ct .s t) = some "CTS" ∧ nameB (.ct .p t) = some "CTP") ∧
  (nameB .ret = some "RET" ∧ nameB (.rf .cy) = some "RFC" ∧ nameB (.rf .z) = some "RFZ" ∧ nameB (.rf .s) = some "RFS" ∧
    nameB (.rf .p) = some "RFP" ∧ nameB (.rt .cy) = some "RTC" ∧ nameB (.rt .z) = some "RTZ" ∧
    nameB (.rt .s) = some "RTS" ∧ nameB (.rt .p) = some "RTP") ∧
  (∀ (n : BitVec 3) (p : BitVec 5), nameB (.rst n) = some "RST" ∧ nameB (.inp n) = some "INP" ∧ nameB (.out p) = some "OUT") ∧
  nameB .hlt = some "HLT" ∧ nameB .hltFF = some "HLT"

/-- Notation A in full, as R91 to R93 resolve it (C4, C6, C7, C9; the restart and port numbers in decimal are D26; log 25): the
mnemonic, then the register, M and number operands, destination first, then the operand bytes in memory order, the low byte of
an address first. -/
def Obligations.NotationANamesAndOperands : Prop :=
  let is := fun (i : Instr) (name : String) (ops : List String) (bytes : List Byte) =>
    nameA i = name ∧ operandsA i = ops ∧ numbersA i = bytes
  (∀ (r r2 : Reg) (v : Byte),
    is (.movRR r r2) "MOV" [r.letter, r2.letter] [] ∧ is (.movRM r) "MOV" [r.letter, "M"] [] ∧
    is (.mviR r v) "MVI" [r.letter] [v] ∧ is (.movMR r) "MOV" ["M", r.letter] [] ∧ is (.mviM v) "MVI" ["M"] [v] ∧
    is (.incR r) "INC" [r.letter] [] ∧ is (.dcrR r) "DCR" [r.letter] []) ∧
  (is .rlc "RLC" [] [] ∧ is .rrc "RRC" [] [] ∧ is .ral "RAL" [] [] ∧ is .rar "RAR" [] []) ∧
  (∀ (r : Reg) (v : Byte),
    is (.addR r) "ADD" [r.letter] [] ∧ is .addM "ADD" ["M"] [] ∧ is (.adi v) "ADI" [] [v] ∧
    is (.adcR r) "ADC" [r.letter] [] ∧ is .adcM "ADC" ["M"] [] ∧ is (.aci v) "ACI" [] [v] ∧
    is (.subR r) "SUB" [r.letter] [] ∧ is .subM "SUB" ["M"] [] ∧ is (.sui v) "SUI" [] [v] ∧
    is (.sbbR r) "SBB" [r.letter] [] ∧ is .sbbM "SBB" ["M"] [] ∧ is (.sbi v) "SBI" [] [v] ∧
    is (.anaR r) "ANA" [r.letter] [] ∧ is .anaM "ANA" ["M"] [] ∧ is (.ani v) "ANI" [] [v] ∧
    is (.oraR r) "ORA" [r.letter] [] ∧ is .oraM "ORA" ["M"] [] ∧ is (.ori v) "ORI" [] [v] ∧
    is (.xraR r) "XRA" [r.letter] [] ∧ is .xraM "XRA" ["M"] [] ∧ is (.xri v) "XRI" [] [v] ∧
    is (.cmpR r) "CMP" [r.letter] [] ∧ is .cmpM "CMP" ["M"] [] ∧ is (.cpi v) "CPI" [] [v]) ∧
  (∀ i1 i2 : Byte, i2.toNat < 64 →
    let t : Addr := i2.extractLsb' 0 6 ++ i1
    is (.jmp t) "JMP" [] [i1, i2] ∧ is (.call t) "CALL" [] [i1, i2] ∧
    is (.jf .cy t) "JNC" [] [i1, i2] ∧ is (.jf .z t) "JNZ" [] [i1, i2] ∧ is (.jf .s t) "JP" [] [i1, i2] ∧
    is (.jf .p t) "JPO" [] [i1, i2] ∧ is (.jt .cy t) "JC" [] [i1, i2] ∧ is (.jt .z t) "JZ" [] [i1, i2] ∧
    is (.jt .s t) "JM" [] [i1, i2] ∧ is (.jt .p t) "JPE" [] [i1, i2] ∧
    is (.cf .cy t) "CNC" [] [i1, i2] ∧ is (.cf .z t) "CNZ" [] [i1, i2] ∧ is (.cf .s t) "CP" [] [i1, i2] ∧
    is (.cf .p t) "CPO" [] [i1, i2] ∧ is (.ct .cy t) "CC" [] [i1, i2] ∧ is (.ct .z t) "CZ" [] [i1, i2] ∧
    is (.ct .s t) "CM" [] [i1, i2] ∧ is (.ct .p t) "CPE" [] [i1, i2]) ∧
  (is .ret "RET" [] [] ∧ is (.rf .cy) "RNC" [] [] ∧ is (.rf .z) "RNZ" [] [] ∧ is (.rf .s) "RP" [] [] ∧
    is (.rf .p) "RPO" [] [] ∧ is (.rt .cy) "RC" [] [] ∧ is (.rt .z) "RZ" [] [] ∧ is (.rt .s) "RM" [] [] ∧
    is (.rt .p) "RPE" [] []) ∧
  (∀ (n : BitVec 3) (p : BitVec 5),
    is (.rst n) "RST" [toString n.toNat] [] ∧ is (.inp n) "IN" [toString n.toNat] [] ∧
    is (.out p) "OUT" [toString p.toNat] []) ∧
  is .hlt "HLT" [] [] ∧ is .hltFF "HLT" [] [] ∧ is .nop "NOP" [] []

/-! ### The step -/

/-- R10: when the machine runs, the bytes at `pc` decode to `i`, and the bytes `i` consists of are readable, the step is
`exec i` at that very state, with nothing around it: `pc` still stands at the first byte. -/
def Obligations.StepRunsTheDecodedInstruction : Prop :=
  ∀ (s : State) (i : Instr) (rest : List Byte), s.halted = false → decode s.window = .ok (i, rest) →
    (∀ k, k < i.length → s.readable (s.pc + BitVec.ofNat 14 k) = true) → step s = exec i s

/-- R211 (the spec's own decision D9): a halted machine has no step, whatever stands at `pc`. That the model says so by the
named stop `halted` is the model's choice (log 10). -/
def Obligations.HaltedMachineHasNoStep : Prop :=
  ∀ s : State, s.halted = true → step s = .fault .halted ∧ ∀ t, step s ≠ .next t

/-- R53, R56, R57, R227 (the spec's own decisions D12, D18, D21; log 6): the step faults with UnmappedAccess exactly at the first
access, in the order of R53, that the memory map forbids. An opcode fetch it forbids is that fault whatever stands there, an
unassigned byte included; where the bytes are an instruction and no access is forbidden, the step is the instruction's meaning
and answers no UnmappedAccess. -/
def Obligations.StepFaultsAtTheFirstForbiddenAccess : Prop :=
  (∀ s : State, s.halted = false → s.readable s.pc = false → step s = .fault (.unmappedAccess s.pc)) ∧
  ∀ (s : State) (i : Instr) (rest : List Byte), s.halted = false → decode s.window = .ok (i, rest) →
    match (accesses i s).findSome? (deniedAt s) with
    | some a => step s = .fault (.unmappedAccess a)
    | none => step s = exec i s ∧ ∀ a, exec i s ≠ .fault (.unmappedAccess a)

/-- R16: when a step completes; its faults are the spec's own decisions D3, D5, D12 (log 6, 8, 9). A machine whose stack pointer
is in its range answers a next state exactly if it is running and either the bytes at `pc` are an instruction, the memory map
allows every access of R53, and the instruction neither pushes on a full stack nor pops an empty one; or the byte at `pc` is
readable and unassigned, `unassigned_opcode` gives it a free effect (the model's own form, log 9), and the map allows the memory
write it makes, if any. -/
def Obligations.StepCompletesExactlyWhen : Prop :=
  ∀ s : State, s.stp ≤ s.stack.length →
    ((∃ t, step s = .next t) ↔
      s.halted = false ∧
        ((∃ i rest, decode s.window = .ok (i, rest) ∧
          (∀ x ∈ accesses i s, deniedAt s x = none) ∧
          (pushes i s = true → s.stp < s.stack.length) ∧ (pops i s = true → 0 < s.stp)) ∨
        (decode s.window = .error (.unassigned (s.byteAt s.pc)) ∧ s.unassigned = .free ∧ s.readable s.pc = true ∧
          ∀ a v, Config.unassignedStore s.unassignedRuns (s.byteAt s.pc) = some (a, v) → s.writable a = true)))

/-! ### Load and store -/

/-- R100, R102: MOV r1, r2 and MVI r, I. The destination takes the source; no flag, no other register, no memory, no stack
entry and no port is touched. -/
def Obligations.LoadsWriteOneRegisterOnly : Prop :=
  (∀ dst src : Reg, Row [opcode 3 dst.code src.code] (.movRR dst src) [.pci]) ∧
  (∀ (dst : Reg) (v : Byte), Row [opcode 0 dst.code 6, v] (.mviR dst v) [.pci, .pcr]) ∧
  (∀ (dst src : Reg) (s : State), stateCount (.movRR dst src) s = 5 ∧
    ∃ t, exec (.movRR dst src) s = .next t ∧ t.reg dst = s.reg src ∧ OtherRegsKept s t dst ∧
      t = { s with regs := t.regs, pc := s.pc + 1 }) ∧
  (∀ (dst : Reg) (v : Byte) (s : State), stateCount (.mviR dst v) s = 8 ∧
    ∃ t, exec (.mviR dst v) s = .next t ∧ t.reg dst = v ∧ OtherRegsKept s t dst ∧
      t = { s with regs := t.regs, pc := s.pc + 2 })

/-- R101: MOV r, M. The register takes the byte at the address H and L form before the instruction, H and L themselves
included; nothing else changes. That bits 7:6 of H take no part in that address is the spec's own decision D2 (log 16). -/
def Obligations.LoadFromMemoryReadsTheByteAtHL : Prop :=
  (∀ dst : Reg, Row [opcode 3 dst.code 7] (.movRM dst) [.pci, .pcr]) ∧
  (∀ (dst : Reg) (s : State), stateCount (.movRM dst) s = 8 ∧
    (s.readable s.maddr = true →
      ∃ t, exec (.movRM dst) s = .next t ∧ t.reg dst = s.byteAt s.maddr ∧ OtherRegsKept s t dst ∧
        t = { s with regs := t.regs, pc := s.pc + 1 }))

/-- R103, R104: MOV M, r and MVI M, I store one byte at the address H and L form, every other byte of memory reads as before,
and nothing else but `pc` changes. -/
def Obligations.StoresWriteOneByteAtTheAddressInHL : Prop :=
  (∀ src : Reg, Row [opcode 3 7 src.code] (.movMR src) [.pci, .pcw]) ∧
  (∀ v : Byte, Row [0b00111110, v] (.mviM v) [.pci, .pcr, .pcw]) ∧
  (∀ (src : Reg) (s : State), stateCount (.movMR src) s = 7 ∧
    (s.writable s.maddr = true → StoresTo (.movMR src) s s.maddr (s.reg src) 1)) ∧
  (∀ (v : Byte) (s : State), stateCount (.mviM v) s = 9 ∧
    (s.writable s.maddr = true → StoresTo (.mviM v) s s.maddr v 2))

/-- R33: the address of M is the low six bits of H above L, so bits 7:6 of H take no part (the spec's own decision D2, log
16); H itself keeps all eight bits and MOV A, H returns them. -/
def Obligations.AddressOfMIsLowSixBitsOfHAboveL : Prop :=
  ∀ s : State,
    s.maddr.toNat = (s.reg .h).toNat % 64 * 256 + (s.reg .l).toNat ∧
    (∀ v : Byte, v.toNat % 64 = (s.reg .h).toNat % 64 → (s.setReg .h v).maddr = s.maddr) ∧
    ∃ t, exec (.movRR .a .h) s = .next t ∧ t.reg .a = s.reg .h ∧ t.reg .h = s.reg .h

/-- R56, R57 (the spec's own decision D12, log 6): every instruction that reads M faults with UnmappedAccess at M's address
where the map gives no memory; the two that store to M fault where the map gives no writable memory. -/
def Obligations.ForbiddenMemoryOperandFaults : Prop :=
  (∀ (s : State) (dst : Reg) (i : Instr), s.readable s.maddr = false →
    i ∈ [.movRM dst, .addM, .adcM, .subM, .sbbM, .anaM, .oraM, .xraM, .cmpM] →
    exec i s = .fault (.unmappedAccess s.maddr)) ∧
  (∀ (s : State) (src : Reg) (v : Byte) (i : Instr), s.writable s.maddr = false → i ∈ [.movMR src, .mviM v] →
    exec i s = .fault (.unmappedAccess s.maddr))

/-! ### Increment, decrement, rotate -/

/-- R110, R111: INC r and DCR r on the six registers other than A. The register goes up or down by one modulo 256, Z, S and P
are those of its new value (the spec's own decision D7, log 17), Cy is kept, and nothing else changes. -/
def Obligations.IncrementAndDecrementKeepCarry : Prop :=
  ∀ r : Reg, r ≠ .a →
    Row [opcode 0 r.code 0] (.incR r) [.pci] ∧ Row [opcode 0 r.code 1] (.dcrR r) [.pci] ∧
    ∀ s : State, stateCount (.incR r) s = 5 ∧ stateCount (.dcrR r) s = 5 ∧
      (∃ t, exec (.incR r) s = .next t ∧ (t.reg r).toNat = ((s.reg r).toNat + 1) % 256 ∧ OtherRegsKept s t r ∧
        ZspOf t.flags (t.reg r) ∧ t.flag .cy = s.flag .cy ∧
        t = { s with regs := t.regs, flags := t.flags, pc := s.pc + 1 }) ∧
      (∃ t, exec (.dcrR r) s = .next t ∧ (t.reg r).toNat = ((s.reg r).toNat + 255) % 256 ∧ OtherRegsKept s t r ∧
        ZspOf t.flags (t.reg r) ∧ t.flag .cy = s.flag .cy ∧
        t = { s with regs := t.regs, flags := t.flags, pc := s.pc + 1 })

/-- R120 to R123: the four rotates, bit by bit. RLC and RRC carry the bit that leaves into the other end and into Cy; RAL and RAR
rotate the nine bits of Cy and A. That Cy alone of the flags is written, and Z, S and P are kept although A changes, is the
spec's resolved reading (R124, C1; log 17, PRESUMED). -/
def Obligations.RotatesMoveBitsAndWriteOnlyCarry : Prop :=
  Row [0b00000010] .rlc [.pci] ∧ Row [0b00001010] .rrc [.pci] ∧ Row [0b00010010] .ral [.pci] ∧
  Row [0b00011010] .rar [.pci] ∧
  ∀ s : State, stateCount .rlc s = 5 ∧ stateCount .rrc s = 5 ∧ stateCount .ral s = 5 ∧ stateCount .rar s = 5 ∧
    RotatesTo .rlc s (fun j => if j = 0 then (s.reg .a).getLsbD 7 else (s.reg .a).getLsbD (j - 1)) ((s.reg .a).getLsbD 7) ∧
    RotatesTo .rrc s (fun j => if j = 7 then (s.reg .a).getLsbD 0 else (s.reg .a).getLsbD (j + 1)) ((s.reg .a).getLsbD 0) ∧
    RotatesTo .ral s (fun j => if j = 0 then s.flag .cy else (s.reg .a).getLsbD (j - 1)) ((s.reg .a).getLsbD 7) ∧
    RotatesTo .rar s (fun j => if j = 7 then s.flag .cy else (s.reg .a).getLsbD (j + 1)) ((s.reg .a).getLsbD 0)

/-- The corner cases of R120 and R122 (and their mirror images): eight RLC, or eight RRC, in a row restore A, and Cy is then the
bit of A moved out last; nine RAL, or nine RAR, restore A and Cy. Stated of the meaning applied again and again: everything else
but `pc` is intact. That Z, S and P are among it is the spec's resolved reading (R124, C1; log 17, PRESUMED). -/
def Obligations.RepeatedRotatesRestoreTheAccumulator : Prop :=
  ∀ s : State,
    let again := fun (i : Instr) (r : Result) => match r with
      | .next t => exec i t
      | x => x
    (∃ t, (again .rlc)^[8] (.next s) = .next t ∧
      t = { s with pc := s.pc + 8, flags := { s.flags with cy := (s.reg .a).getLsbD 0 } }) ∧
    (∃ t, (again .rrc)^[8] (.next s) = .next t ∧
      t = { s with pc := s.pc + 8, flags := { s.flags with cy := (s.reg .a).getLsbD 7 } }) ∧
    (∃ t, (again .ral)^[9] (.next s) = .next t ∧ t = { s with pc := s.pc + 9 }) ∧
    (∃ t, (again .rar)^[9] (.next s) = .next t ∧ t = { s with pc := s.pc + 9 })

/-! ### Arithmetic, logic, compare -/

/-- R131 to R136 by the addition function R130, its flags as the spec itself decides (D19, C1; log 17): ADD, ADC and the
immediates ADI, ACI, in the r, M and I forms. -/
def Obligations.AdditionWritesSumAndAllFlags : Prop :=
  (∀ (r : Reg) (v : Byte), Row [opcode 2 0 r.code] (.addR r) [.pci] ∧ Row [opcode 2 1 r.code] (.adcR r) [.pci] ∧
    Row [0x87] .addM [.pci, .pcr] ∧ Row [0x8F] .adcM [.pci, .pcr] ∧
    Row [0x04, v] (.adi v) [.pci, .pcr] ∧ Row [0x0C, v] (.aci v) [.pci, .pcr]) ∧
  ∀ (r : Reg) (v : Byte) (s : State),
    stateCount (.addR r) s = 5 ∧ stateCount (.adcR r) s = 5 ∧ stateCount .addM s = 8 ∧ stateCount .adcM s = 8 ∧
    stateCount (.adi v) s = 8 ∧ stateCount (.aci v) s = 8 ∧
    AddsTo (.addR r) s (s.reg r) false 1 ∧ AddsTo (.adcR r) s (s.reg r) (s.flag .cy) 1 ∧
    AddsTo (.adi v) s v false 2 ∧ AddsTo (.aci v) s v (s.flag .cy) 2 ∧
    (s.readable s.maddr = true →
      AddsTo .addM s (s.byteAt s.maddr) false 1 ∧ AddsTo .adcM s (s.byteAt s.maddr) (s.flag .cy) 1)

/-- R141 to R146 by the subtraction function R140, Cy the borrow as the spec itself decides (D6, D19; log 17): SUB, SBB and
the immediates SUI, SBI, in the r, M and I forms. -/
def Obligations.SubtractionWritesDifferenceAndBorrow : Prop :=
  (∀ (r : Reg) (v : Byte), Row [opcode 2 2 r.code] (.subR r) [.pci] ∧ Row [opcode 2 3 r.code] (.sbbR r) [.pci] ∧
    Row [0x97] .subM [.pci, .pcr] ∧ Row [0x9F] .sbbM [.pci, .pcr] ∧
    Row [0x14, v] (.sui v) [.pci, .pcr] ∧ Row [0x1C, v] (.sbi v) [.pci, .pcr]) ∧
  ∀ (r : Reg) (v : Byte) (s : State),
    stateCount (.subR r) s = 5 ∧ stateCount (.sbbR r) s = 5 ∧ stateCount .subM s = 8 ∧ stateCount .sbbM s = 8 ∧
    stateCount (.sui v) s = 8 ∧ stateCount (.sbi v) s = 8 ∧
    SubtractsTo (.subR r) s (s.reg r) false 1 ∧ SubtractsTo (.sbbR r) s (s.reg r) (s.flag .cy) 1 ∧
    SubtractsTo (.sui v) s v false 2 ∧ SubtractsTo (.sbi v) s v (s.flag .cy) 2 ∧
    (s.readable s.maddr = true →
      SubtractsTo .subM s (s.byteAt s.maddr) false 1 ∧ SubtractsTo .sbbM s (s.byteAt s.maddr) (s.flag .cy) 1)

/-- R151 to R159 by the logic function R150, bit by bit with the truth table of R160, half of it the spec's own decision (D8,
D19; log 17): ANA, ORA, XRA and the immediates ANI, ORI, XRI. -/
def Obligations.LogicCombinesBitsAndClearsCarry : Prop :=
  (∀ (r : Reg) (v : Byte),
    Row [opcode 2 4 r.code] (.anaR r) [.pci] ∧ Row [0xA7] .anaM [.pci, .pcr] ∧ Row [0x24, v] (.ani v) [.pci, .pcr] ∧
    Row [opcode 2 6 r.code] (.oraR r) [.pci] ∧ Row [0xB7] .oraM [.pci, .pcr] ∧ Row [0x34, v] (.ori v) [.pci, .pcr] ∧
    Row [opcode 2 5 r.code] (.xraR r) [.pci] ∧ Row [0xAF] .xraM [.pci, .pcr] ∧ Row [0x2C, v] (.xri v) [.pci, .pcr]) ∧
  ∀ (r : Reg) (v : Byte) (s : State),
    stateCount (.anaR r) s = 5 ∧ stateCount .anaM s = 8 ∧ stateCount (.ani v) s = 8 ∧
    stateCount (.oraR r) s = 5 ∧ stateCount .oraM s = 8 ∧ stateCount (.ori v) s = 8 ∧
    stateCount (.xraR r) s = 5 ∧ stateCount .xraM s = 8 ∧ stateCount (.xri v) s = 8 ∧
    CombinesTo and (.anaR r) s (s.reg r) 1 ∧ CombinesTo and (.ani v) s v 2 ∧
    CombinesTo or (.oraR r) s (s.reg r) 1 ∧ CombinesTo or (.ori v) s v 2 ∧
    CombinesTo xor (.xraR r) s (s.reg r) 1 ∧ CombinesTo xor (.xri v) s v 2 ∧
    (s.readable s.maddr = true →
      CombinesTo and .anaM s (s.byteAt s.maddr) 1 ∧ CombinesTo or .oraM s (s.byteAt s.maddr) 1 ∧
      CombinesTo xor .xraM s (s.byteAt s.maddr) 1)

/-- R165 to R168: CMP r, CMP M and CPI write the four flags of the difference of A and the operand, and keep A. -/
def Obligations.CompareWritesFlagsAndKeepsTheAccumulator : Prop :=
  (∀ (r : Reg) (v : Byte), Row [opcode 2 7 r.code] (.cmpR r) [.pci] ∧ Row [0xBF] .cmpM [.pci, .pcr] ∧
    Row [0x3C, v] (.cpi v) [.pci, .pcr]) ∧
  ∀ (r : Reg) (v : Byte) (s : State),
    stateCount (.cmpR r) s = 5 ∧ stateCount .cmpM s = 8 ∧ stateCount (.cpi v) s = 8 ∧
    ComparesTo (.cmpR r) s (s.reg r) 1 ∧ ComparesTo (.cpi v) s v 2 ∧
    (s.readable s.maddr = true → ComparesTo .cmpM s (s.byteAt s.maddr) 1)

/-- R169, the outcome table, its third row and S and P the spec's own reading (D6, log 17): after a compare Z says "equal",
Cy says "less" (unsigned), and both 0 says "greater"; S and P are those of the 8-bit difference. -/
def Obligations.CompareOutcomeTable : Prop :=
  ∀ (s t : State) (i : Instr) (v : Byte),
    ((∃ r, i = .cmpR r ∧ v = s.reg r) ∨ (i = .cmpM ∧ v = s.byteAt s.maddr) ∨ i = .cpi v) → exec i s = .next t →
    (t.flag .cy = false ∧ t.flag .z = false ↔ v.toNat < (s.reg .a).toNat) ∧
    (t.flag .z = true ↔ s.reg .a = v) ∧
    (t.flag .cy = true ↔ (s.reg .a).toNat < v.toNat) ∧
    (t.flag .cy = true → t.flag .z = false) ∧
    (t.flag .s = true ↔ 128 ≤ (s.reg .a - v).toNat) ∧
    (t.flag .p = true ↔ onesCount (s.reg .a - v) % 2 = 0)

/-- The law of addition of R137: 256 * Cy' + A' is exactly the sum of A, the operand and the carry-in, and read in two's
complement the result is wrong exactly if the operands have one sign and the result the other. -/
def Obligations.AdditionLaw : Prop :=
  ∀ (s t : State) (v : Byte),
    (exec (.adi v) s = .next t →
      256 * (t.flag .cy).toNat + (t.reg .a).toNat = (s.reg .a).toNat + v.toNat ∧
      ((t.reg .a).toInt ≠ (s.reg .a).toInt + v.toInt ↔
        (s.reg .a).getLsbD 7 = v.getLsbD 7 ∧ (t.reg .a).getLsbD 7 ≠ (s.reg .a).getLsbD 7)) ∧
    (exec (.aci v) s = .next t →
      256 * (t.flag .cy).toNat + (t.reg .a).toNat = (s.reg .a).toNat + v.toNat + (s.flag .cy).toNat ∧
      ((t.reg .a).toInt ≠ (s.reg .a).toInt + v.toInt + ((s.flag .cy).toNat : Int) ↔
        (s.reg .a).getLsbD 7 = v.getLsbD 7 ∧ (t.reg .a).getLsbD 7 ≠ (s.reg .a).getLsbD 7))

/-- The law of subtraction of R147: A' - 256 * Cy' is exactly the difference, and A' with the inverted Cy' is the 9-bit sum
of A, the one's complement of the operand and the inverted borrow-in. -/
def Obligations.SubtractionLaw : Prop :=
  ∀ (s t : State) (v : Byte),
    (exec (.sui v) s = .next t →
      ((t.reg .a).toNat : Int) - 256 * (t.flag .cy).toNat = ((s.reg .a).toNat : Int) - v.toNat ∧
      256 * (!t.flag .cy).toNat + (t.reg .a).toNat = (s.reg .a).toNat + (255 - v.toNat) + 1) ∧
    (exec (.sbi v) s = .next t →
      ((t.reg .a).toNat : Int) - 256 * (t.flag .cy).toNat = ((s.reg .a).toNat : Int) - v.toNat - (s.flag .cy).toNat ∧
      256 * (!t.flag .cy).toNat + (t.reg .a).toNat = (s.reg .a).toNat + (255 - v.toNat) + (!s.flag .cy).toNat)

/-- XRA A and SUB A put A and the flags in a known state from any state whatever: A = 0, Cy = 0, Z = 1, S = 0, P = 1 (R141, R157,
R251, R253). That XRA is exclusive or is the spec's own decision D8, that it clears Cy and that both write P its resolved reading
(C1, D19), and that Cy after SUB is the borrow its decision D6 (log 17, PRESUMED). -/
def Obligations.ClearingTheAccumulatorFromAnyState : Prop :=
  ∀ (s : State) (i : Instr), i = .xraR .a ∨ i = .subR .a →
    ∃ t, exec i s = .next t ∧ t.reg .a = 0 ∧ t.flag .cy = false ∧ t.flag .z = true ∧ t.flag .s = false ∧ t.flag .p = true

/-! ### Control transfer -/

/-- R175, R176, R177: JMP, and the conditional jumps for each flag. Only `pc` changes: to the target if taken, past the three
bytes if not. -/
def Obligations.JumpsGoToTargetOrPast : Prop :=
  (∀ (x : BitVec 3) (i1 i2 : Byte),
    Row [opcode 1 x 4, i1, i2] (.jmp (i2.extractLsb' 0 6 ++ i1)) [.pci, .pcr, .pcr]) ∧
  (∀ (c : Flag) (i1 i2 : Byte),
    Row [opcode 1 ((0 : BitVec 1) ++ c.code) 0, i1, i2] (.jf c (i2.extractLsb' 0 6 ++ i1)) [.pci, .pcr, .pcr] ∧
    Row [opcode 1 ((1 : BitVec 1) ++ c.code) 0, i1, i2] (.jt c (i2.extractLsb' 0 6 ++ i1)) [.pci, .pcr, .pcr]) ∧
  ∀ (c : Flag) (target : Addr) (s : State),
    stateCount (.jmp target) s = 11 ∧
    stateCount (.jf c target) s = (if s.flag c = false then 11 else 9) ∧
    stateCount (.jt c target) s = (if s.flag c = true then 11 else 9) ∧
    exec (.jmp target) s = .next { s with pc := target } ∧
    exec (.jf c target) s = .next { s with pc := if s.flag c = false then target else s.pc + 3 } ∧
    exec (.jt c target) s = .next { s with pc := if s.flag c = true then target else s.pc + 3 }

/-- R180, R181, R182: CALL, and the conditional calls for each flag. Taken with room on the stack: the return address `pc +
3` is pushed and control goes to the target; not taken: only `pc` moves; taken on a full stack: the model fault
StackOverflow, the spec's own decision D3 (log 8). -/
def Obligations.CallsPushTheReturnAddress : Prop :=
  (∀ (x : BitVec 3) (i1 i2 : Byte),
    Row [opcode 1 x 6, i1, i2] (.call (i2.extractLsb' 0 6 ++ i1)) [.pci, .pcr, .pcr]) ∧
  (∀ (c : Flag) (i1 i2 : Byte),
    Row [opcode 1 ((0 : BitVec 1) ++ c.code) 2, i1, i2] (.cf c (i2.extractLsb' 0 6 ++ i1)) [.pci, .pcr, .pcr] ∧
    Row [opcode 1 ((1 : BitVec 1) ++ c.code) 2, i1, i2] (.ct c (i2.extractLsb' 0 6 ++ i1)) [.pci, .pcr, .pcr]) ∧
  ∀ (c : Flag) (target : Addr) (s : State),
    stateCount (.call target) s = 11 ∧
    stateCount (.cf c target) s = (if s.flag c = false then 11 else 9) ∧
    stateCount (.ct c target) s = (if s.flag c = true then 11 else 9) ∧
    (s.stp < s.stack.length →
      CallsTo (.call target) s (s.pc + 3) target ∧
      (s.flag c = false → CallsTo (.cf c target) s (s.pc + 3) target) ∧
      (s.flag c = true → CallsTo (.ct c target) s (s.pc + 3) target)) ∧
    (s.flag c = true → exec (.cf c target) s = .next { s with pc := s.pc + 3 }) ∧
    (s.flag c = false → exec (.ct c target) s = .next { s with pc := s.pc + 3 }) ∧
    (s.stp = s.stack.length →
      exec (.call target) s = .fault (.stackOverflow s.pc) ∧
      (s.flag c = false → exec (.cf c target) s = .fault (.stackOverflow s.pc)) ∧
      (s.flag c = true → exec (.ct c target) s = .fault (.stackOverflow s.pc)))

/-- R185, R186, R187: RET, and the conditional returns for each flag. Taken with an address held: the pointer moves down and
control goes to the entry; not taken: only `pc` moves; taken with none held: the model fault StackUnderflow, the spec's own
decision D3 (log 8). -/
def Obligations.ReturnsPopTheReturnAddress : Prop :=
  (∀ x : BitVec 3, Row [opcode 0 x 7] .ret [.pci]) ∧
  (∀ c : Flag, Row [opcode 0 ((0 : BitVec 1) ++ c.code) 3] (.rf c) [.pci] ∧
    Row [opcode 0 ((1 : BitVec 1) ++ c.code) 3] (.rt c) [.pci]) ∧
  ∀ (c : Flag) (s : State),
    stateCount .ret s = 5 ∧
    stateCount (.rf c) s = (if s.flag c = false then 5 else 3) ∧
    stateCount (.rt c) s = (if s.flag c = true then 5 else 3) ∧
    (0 < s.stp → s.stp ≤ s.stack.length →
      ReturnsIn .ret s ∧ (s.flag c = false → ReturnsIn (.rf c) s) ∧ (s.flag c = true → ReturnsIn (.rt c) s)) ∧
    (s.flag c = true → exec (.rf c) s = .next { s with pc := s.pc + 1 }) ∧
    (s.flag c = false → exec (.rt c) s = .next { s with pc := s.pc + 1 }) ∧
    (s.stp = 0 →
      exec .ret s = .fault (.stackUnderflow s.pc) ∧
      (s.flag c = false → exec (.rf c) s = .fault (.stackUnderflow s.pc)) ∧
      (s.flag c = true → exec (.rt c) s = .fault (.stackUnderflow s.pc)))

/-- R190: RST pushes `pc + 1` as CALL does (the spec's own decision D4, log 18) and goes to 8 * AAA; on a full stack it
overflows (D3, log 8). -/
def Obligations.RestartPushesAndGoesToEightTimesN : Prop :=
  ∀ n : BitVec 3, Row [opcode 0 n 5] (.rst n) [.pci] ∧
    ∀ s : State, stateCount (.rst n) s = 5 ∧
      (s.stp < s.stack.length → CallsTo (.rst n) s (s.pc + 1) (BitVec.ofNat 14 (8 * n.toNat))) ∧
      (s.stp = s.stack.length → exec (.rst n) s = .fault (.stackOverflow s.pc))

/-- R36, R37: a return undoes a call. After a CALL, a taken conditional call or an RST that completes, any machine that still has
that stack and pointer goes back, by RET, to the address after the call, with the pointer as it was before. For RST this rests
on the spec's own decision D4 that it moves the pointer (R190; log 18, PRESUMED). -/
def Obligations.ReturnUndoesACall : Prop :=
  ∀ (s t u : State) (i : Instr), pushes i s = true → exec i s = .next t → u.stack = t.stack → u.stp = t.stp →
    exec .ret u = .next { u with stp := s.stp, pc := s.pc + BitVec.ofNat 14 i.length }

/-! ### Ports, halt, no-operation -/

/-- R200, R201: IN puts the byte the environment presents into A and writes no flag; the byte is the free value of this read,
and the next read, even of the same port, has a free value of its own (`portReads` is the model's own counter, log 5). -/
def Obligations.InputLoadsTheFreePortByte : Prop :=
  ∀ p : BitVec 3, Row [0b0100#4 ++ p ++ 1#1] (.inp p) [.pci, .pcc] ∧
    ∀ s : State, stateCount (.inp p) s = 8 ∧
      ∃ t, exec (.inp p) s = .next t ∧ t.reg .a = Config.portByte s.portReads p ∧ OtherRegsKept s t .a ∧
        t = { s with regs := t.regs, portReads := s.portReads + 1, pc := s.pc + 1 }

/-- R202: OUT gives A to the output port. That the event (port, A) is appended to an ordered list and nothing else but `pc`
changes is R203, the spec's own decision D13; the list is the field `outputs` (log 21, DEDUCED). -/
def Obligations.OutputAppendsOneEvent : Prop :=
  ∀ p : BitVec 5, 8 ≤ p.toNat → Row [0b01#2 ++ p ++ 1#1] (.out p) [.pci, .pcc] ∧
    ∀ s : State, stateCount (.out p) s = 6 ∧
      exec (.out p) s = .next { s with outputs := s.outputs ++ [(p, s.reg .a)], pc := s.pc + 1 }

/-- R210, R212 (the spec's own decision D9, log 13): HLT in both encodings moves `pc` past its byte and sets `halted`;
nothing else changes, and no step follows (log 10). -/
def Obligations.HaltStopsTheMachine : Prop :=
  Row [0x00] .hlt [.pci] ∧ Row [0x01] .hlt [.pci] ∧ Row [0xFF] .hltFF [.pci] ∧
  ∀ s : State, stateCount .hlt s = 4 ∧ stateCount .hltFF s = 4 ∧
    exec .hlt s = .next { s with pc := s.pc + 1, halted := true } ∧
    exec .hltFF s = .next { s with pc := s.pc + 1, halted := true } ∧
    ∀ t u, exec .hlt s = .next t ∨ exec .hltFF s = .next t → step t ≠ .next u

/-- R213: NOP changes nothing but `pc`; it is MOV A, A, whose word 0xC0 decodes to MOV A, A. -/
def Obligations.NopIsMovAA : Prop :=
  (∀ rest, decode (0xC0 :: rest) = .ok (.movRR .a .a, rest)) ∧ encode .nop = [0xC0] ∧ cycles .nop = [.pci] ∧
  ∀ s : State, stateCount .nop s = 5 ∧ exec .nop s = exec (.movRR .a .a) s ∧ exec .nop s = .next { s with pc := s.pc + 1 }

/-! ### Whole-machine rules -/

/-- Every step keeps the invariant: the memory in its canonical form (the model's own, log 4), the stack pointer in
0..STACK_DEPTH, every recorded output event at a port 8 to 31. -/
def Obligations.StepKeepsTheInvariant : Prop :=
  ∀ s t : State, s.Inv → step s = .next t → t.Inv

/-- The reset state, in which the values the spec leaves unspecified are the model's choice (log 1 to 5), meets the
invariant. -/
def Obligations.ResetMeetsTheInvariant : Prop := State.reset.Inv

/-- R42, R251, R17 (the spec's own decisions D11, D25): the model's reset state is one of the draws the spec admits, and from
every draw, whatever the registers, the flags, the stack entries and the memory image hold, every run keeps the invariant. -/
def Obligations.EveryRunFromResetKeepsTheInvariant : Prop :=
  State.reset.ResetDraw ∧ ∀ (n : Nat) (s t : State), s.ResetDraw → Reaches n s t → t.Inv

/-- What the spec gives for reset (R42, R250): `pc` = 0x0000, `stp` = 0, `halted` = 0 (its own decision D11). Nothing is said
of the registers, flags, stack entries and memory cells, which the spec leaves unspecified. -/
def Obligations.ResetStartsAtAddressZero : Prop :=
  State.reset.pc = 0 ∧ State.reset.stp = 0 ∧ State.reset.halted = false

/-- R6, R37, R60, R85: the parameters of the machine, which the model carries in the state (log 6, 7, 9), do not change while it
runs: no step changes the memory map, the depth of the address stack or what unassigned bytes do. -/
def Obligations.StepKeepsTheParameters : Prop :=
  ∀ s t : State, step s = .next t →
    t.memMap = s.memMap ∧ t.stack.length = s.stack.length ∧ t.unassigned = s.unassigned

/-- R57 (the spec's own decision D12, log 6): memory the map does not call RAM is never changed, by any number of steps. -/
def Obligations.ReadOnlyMemoryNeverChanges : Prop :=
  ∀ (n : Nat) (s t : State) (a : Addr), Reaches n s t → s.writable a = false → t.byteAt a = s.byteAt a

/-- The history of output events only grows: what has been output stays, in order, for any number of steps, and each step adds at
most one event. That the events form an ordered list is R203, the spec's own decision D13; the list is the field `outputs` (log
21, DEDUCED). That an unassigned byte whose parameter is `free` adds at most one is the model's own bound (log 9, DESIGN CHOICE). -/
def Obligations.OutputHistoryOnlyGrows : Prop :=
  (∀ (n : Nat) (s t : State), Reaches n s t → ∃ more, t.outputs = s.outputs ++ more ∧ more.length ≤ n)

/-- R15, R38 (the spec's own decision D9, log 13): `halted` becomes 1 only by executing HLT, in one of its three bytes, and a step
never clears it. That an unassigned byte whose parameter is `free` does not halt either is the model's own bound (log 9, DESIGN
CHOICE), after D5. -/
def Obligations.OnlyHaltBytesHalt : Prop :=
  ∀ s t : State, step s = .next t →
    (t.halted = true ↔ s.byteAt s.pc = 0x00 ∨ s.byteAt s.pc = 0x01 ∨ s.byteAt s.pc = 0xFF)

/-- R23: which register each instruction writes; all others keep their value. -/
def Obligations.RegistersWrittenAsTabled : Prop :=
  ∀ (i : Instr) (s t : State) (r : Reg), exec i s = .next t → regWritten i ≠ some r → t.reg r = s.reg r

/-- R34 (the spec's resolved reading, D19, log 17): which flags each instruction writes; all others keep their value. -/
def Obligations.FlagsWrittenAsTabled : Prop :=
  ∀ (i : Instr) (s t : State) (c : Flag), exec i s = .next t → c ∉ flagsWritten i → t.flag c = s.flag c

/-- R35: which flags each instruction reads. Two machines that differ only in flags the instruction does not read, and to which
the environment presents the same port bytes (log 5), do the same: a stop is the same stop, and the two next states differ at
most in flags the instruction does not write. -/
def Obligations.FlagsReadAsTabled : Prop :=
  ∀ (i : Instr) (s : State) (f : Flags), (∀ c ∈ flagsRead i, f.get c = s.flags.get c) →
    (∀ e, exec i (s.setFlags f) = .fault e ↔ exec i s = .fault e) ∧
    (∀ t, exec i s = .next t → ∃ t', exec i (s.setFlags f) = .next t' ∧
      t' = { t with flags := t'.flags } ∧ ∀ c ∈ flagsWritten i, t'.flag c = t.flag c)

/-- R36, R39: only the calls, the restart and the returns touch the address stack; the calls and the restart are the only
ones that change an entry. -/
def Obligations.OnlyCallsAndReturnsTouchTheStack : Prop :=
  ∀ (i : Instr) (s t : State), exec i s = .next t →
    (mayPush i = false → t.stack = s.stack) ∧ (mayPush i = false → mayPop i = false → t.stp = s.stp) ∧
    (mayPush i = true → t.stp = s.stp ∨ t.stp = s.stp + 1) ∧ (mayPop i = true → t.stp = s.stp ∨ t.stp + 1 = s.stp)

/-- R41, R53, R57: only MOV M, r and MVI M, I change memory, and they change only the byte at the address H and L form. -/
def Obligations.OnlyStoresChangeMemory : Prop :=
  ∀ (i : Instr) (s t : State), exec i s = .next t →
    (storesToM i = false → t.mem = s.mem) ∧ (storesToM i = true → ∀ a, a ≠ s.maddr → t.byteAt a = s.byteAt a)

/-- R10, R28, R29: an instruction that is not a jump, call, return, restart or halt ends with `pc` moved by its length,
modulo 2^14. -/
def Obligations.SequentialInstructionsAdvanceByTheirLength : Prop :=
  ∀ (i : Instr) (s t : State), exec i s = .next t → transfersControl i = false →
    t.pc.toNat = (s.pc.toNat + i.length) % 16384

/-- R203: no rule reads the list of output events: two machines that differ only in it, and to which the environment presents
the same port bytes (log 5) and unassigned bytes have the same free effect (log 9), do the same, and each appends to its own list
what the other appends to its own. -/
def Obligations.OutputHistoryIsNeverRead : Prop :=
  ∀ (s : State) (l : List (BitVec 5 × Byte)),
    match step s with
    | .next t => ∃ more, t.outputs = s.outputs ++ more ∧ step { s with outputs := l } = .next { t with outputs := l ++ more }
    | .fault f => step { s with outputs := l } = .fault f
    | .refused _ => False

/-- R64 (the spec's own decision D15): a store is seen by the very next fetch, whichever byte of the next instruction it hits.
MOV M, r or MVI M, I stands at `pc` and may store; the byte `v` stands, from then on, at the address H and L form and every other
byte is as before. If the three bytes behind the store read so are the instruction `i`, and its own bytes are readable, the store
completes and the next step is `i`. So `v` may be the opcode byte of `i`, its operand byte I, I1 or I2, or none of them. -/
def Obligations.StoreIsSeenByTheNextFetch : Prop :=
  ∀ (s : State) (store i : Instr) (v : Byte) (len : Nat) (rest rest' : List Byte),
    ((∃ r, store = .movMR r ∧ v = s.reg r ∧ len = 1) ∨ (store = .mviM v ∧ len = 2)) →
    s.halted = false → decode s.window = .ok (store, rest) →
    (∀ k, k < len → s.readable (s.pc + BitVec.ofNat 14 k) = true) → s.writable s.maddr = true →
    let behind := fun k : Nat => s.pc + BitVec.ofNat 14 (len + k)
    let seen := fun k : Nat => if behind k = s.maddr then v else s.byteAt (behind k)
    decode [seen 0, seen 1, seen 2] = .ok (i, rest') → (∀ k, k < i.length → s.readable (behind k) = true) →
    ∃ t, step s = .next t ∧ t.pc = behind 0 ∧ (∀ k, t.byteAt (behind k) = seen k) ∧ step t = exec i t

/-- R56, R57, R61: MOV M, r and then, H and L not having changed, MOV r', M gives the byte stored, whatever memory held
before. -/
def Obligations.StoreThenLoadGivesTheByteStored : Prop :=
  ∀ (s : State) (src dst : Reg), s.writable s.maddr = true →
    ∃ t u, exec (.movMR src) s = .next t ∧ exec (.movRM dst) t = .next u ∧ u.reg dst = s.reg src ∧ u.mem = t.mem

/-- Two canonical memories that hold the same written bytes are the same list: the memory list carries no history (the
model's own form, log 4). -/
def Obligations.CanonicalMemoriesAreDeterminedByTheirBytes : Prop :=
  ∀ m m' : Memory, m.wf = true → m'.wf = true → (∀ a, m.read a = m'.read a) → m = m'

/-- R261: the cycle sequence of each instruction agrees with the access order of R53: one PCI for the opcode byte, one PCR
per operand byte or memory operand read, one PCW per memory write, one PCC per port transfer. -/
def Obligations.CyclesAgreeWithTheAccessOrder : Prop :=
  ∀ (i : Instr) (s : State), (accesses i s).map Access.cycle = cycles i
end

