-- ==== Sys2Proof/Laws/Decode.lean ====
section
/-! SUPPORT. The fields of the words the encoder writes, and the inverse pairs of field codes. -/

namespace Sys2Proof

@[simp] theorem Reg.ofCode_code (r : Reg) : Reg.ofCode r.code = some r := by cases r <;> rfl

@[simp] theorem Reg.ofCode_seven : Reg.ofCode 7 = none := rfl

theorem Reg.code_of_ofCode (c : BitVec 3) (r : Reg) (h : Reg.ofCode c = some r) : r.code = c := by
  revert h
  revert r c
  decide +revert

theorem Reg.ofCode_eq_none_iff (c : BitVec 3) : Reg.ofCode c = none ↔ c = 7 := by
  revert c
  decide

@[simp] theorem Flag.ofCode_code (c : Flag) : Flag.ofCode c.code = c := by cases c <;> rfl

@[simp] theorem Flag.code_ofCode (c : BitVec 2) : (Flag.ofCode c).code = c := by
  revert c
  decide

@[simp] theorem fieldG_opcode (g : BitVec 2) (y z : BitVec 3) : fieldG (opcode g y z) = g := by
  revert g y z
  decide

@[simp] theorem fieldY_opcode (g : BitVec 2) (y z : BitVec 3) : fieldY (opcode g y z) = y := by
  revert g y z
  decide

@[simp] theorem fieldZ_opcode (g : BitVec 2) (y z : BitVec 3) : fieldZ (opcode g y z) = z := by
  revert g y z
  decide

/-- An opcode byte is its three fields (R71). -/
theorem opcode_fields (b : Byte) : opcode (fieldG b) (fieldY b) (fieldZ b) = b := by
  revert b
  decide

/-- The address read from the two bytes of an address operand is the address written (R76). -/
theorem joinAddr_addrBytes (t : Addr) :
    joinAddr (t.extractLsb' 0 8) ((0 : BitVec 2) ++ t.extractLsb' 8 6) = t := by
  apply BitVec.eq_of_getLsbD_eq
  intro j hj
  simp only [joinAddr, BitVec.getLsbD_append, BitVec.getLsbD_extractLsb']
  by_cases h : j < 8
  · simp [h]
  · have h6 : j - 8 < 6 := by omega
    simp [h, h6, show 8 + (j - 8) = j by omega]

/-- Bits 7:6 of I2 are ignored (R76, R88). -/
theorem joinAddr_low (i1 i2 : Byte) : joinAddr i1 ((0 : BitVec 2) ++ i2.extractLsb' 0 6) = joinAddr i1 i2 := by
  have h : ∀ v : Byte, ((0 : BitVec 2) ++ v.extractLsb' 0 6 : Byte).extractLsb' 0 6 = v.extractLsb' 0 6 := by decide
  simp only [joinAddr, h]

/-- Writing an address read from two bytes gives the bytes back, with bits 7:6 of the second cleared (R88). -/
theorem addrBytes_joinAddr (i1 i2 : Byte) :
    addrBytes (joinAddr i1 i2) = [i1, (0 : BitVec 2) ++ i2.extractLsb' 0 6] := by
  have low : (joinAddr i1 i2).extractLsb' 0 8 = i1 := by
    apply BitVec.eq_of_getLsbD_eq
    intro j hj
    simp only [joinAddr, BitVec.getLsbD_extractLsb', BitVec.getLsbD_append]
    simp [hj]
  have high : (joinAddr i1 i2).extractLsb' 8 6 = i2.extractLsb' 0 6 := by
    apply BitVec.eq_of_getLsbD_eq
    intro j hj
    simp only [joinAddr, BitVec.getLsbD_extractLsb', BitVec.getLsbD_append]
    simp [hj]
  rw [addrBytes, low, high]

/-! ### The opcode map, said once -/

/-- What the map gives for a byte: nothing for the six unassigned bytes (R85); else a format with the length of R81 whose
completed instruction is well formed and is encoded by the bytes it was read from, don't-care bits cleared (R88). -/
def HeadSpec (b : Byte) : Prop :=
  match decodeHead b with
  | none => b ∈ ([0x22, 0x2A, 0x32, 0x3A, 0x38, 0x39] : List Byte)
  | some (.f1 i) =>
    lengthOfOpcode b = 1 ∧ b ∉ ([0x22, 0x2A, 0x32, 0x3A, 0x38, 0x39] : List Byte) ∧
      i.wellFormed = true ∧ i ≠ .nop ∧ encode i = clearDontCares [b]
  | some (.f2 build) =>
    lengthOfOpcode b = 2 ∧ b ∉ ([0x22, 0x2A, 0x32, 0x3A, 0x38, 0x39] : List Byte) ∧
      ∀ v, (build v).wellFormed = true ∧ build v ≠ .nop ∧ encode (build v) = [b, v] ∧ clearDontCares [b, v] = [b, v]
  | some (.f3 build) =>
    lengthOfOpcode b = 3 ∧ b ∉ ([0x22, 0x2A, 0x32, 0x3A, 0x38, 0x39] : List Byte) ∧
      ∃ c, (∀ i1 i2, clearDontCares [b, i1, i2] = [c, i1, (0 : BitVec 2) ++ i2.extractLsb' 0 6]) ∧
        ∀ t, (build t).wellFormed = true ∧ build t ≠ .nop ∧ encode (build t) = c :: addrBytes t

/-- The opcode map, byte by byte (R80, R84, R85). -/
theorem decodeHead_spec (b : Byte) : HeadSpec b := by
  suffices h : ∀ n : Fin 256, HeadSpec (BitVec.ofFin n) from h b.toFin
  intro n
  fin_cases n <;> first
    | exact (show _ ∧ _ from ⟨rfl, by decide, rfl, nofun, rfl⟩)
    | exact (show _ ∧ _ from ⟨rfl, by decide, fun v => ⟨rfl, nofun, rfl, rfl⟩⟩)
    | exact (show _ ∧ _ from ⟨rfl, by decide, _, fun _ _ => rfl, fun t => ⟨rfl, nofun, rfl⟩⟩)
    | exact (show _ ∈ _ by decide)

end Sys2Proof
end

