-- ==== Sys2Proof/Laws/Flags.lean ====
section
/-! SUPPORT. What the flag computations compute, in the words of the spec (10_state R31, 43_add R130, 44_sub R140). -/

namespace Sys2Proof.Machine

/-- The model's parity is the count of 1 bits being even (R9, R31). -/
theorem parityEven_iff (v : Byte) : parityEven v = true ↔ onesCount v % 2 = 0 := by
  revert v
  decide

/-- `setZSP` gives the Z, S and P of its value and keeps Cy (R9). -/
theorem zspOf_setZSP (f : Flags) (v : Byte) : ZspOf (f.setZSP v) v := by
  refine ⟨?_, Iff.rfl, parityEven_iff v⟩
  simp [Flags.setZSP]

theorem zspOf_ofResult (c : Bool) (v : Byte) : ZspOf (.ofResult c v) v := by
  refine ⟨?_, Iff.rfl, parityEven_iff v⟩
  simp [Flags.ofResult]

@[simp] theorem Flags.ofResult_cy (c : Bool) (v : Byte) : (Flags.ofResult c v).cy = c := rfl

@[simp] theorem Flags.setZSP_cy (f : Flags) (v : Byte) : (f.setZSP v).cy = f.cy := rfl

theorem addResult_toNat (a v : Byte) (c : Bool) :
    (addResult a v c).toNat = (a.toNat + v.toNat + c.toNat) % 256 := by
  simp [addResult]

theorem addCarry_iff (a v : Byte) (c : Bool) :
    addCarry a v c = true ↔ 255 < a.toNat + v.toNat + c.toNat := by
  simp [addCarry]

theorem subResult_toNat (a v : Byte) (b : Bool) :
    ((subResult a v b).toNat : Int) = ((a.toNat : Int) - v.toNat - b.toNat) % 256 := by
  have h := Int.emod_nonneg ((a.toNat : Int) - v.toNat - b.toNat) (show (256 : Int) ≠ 0 by decide)
  simp only [subResult, BitVec.toNat_ofInt]
  omega

theorem subBorrow_iff (a v : Byte) (b : Bool) :
    subBorrow a v b = true ↔ a.toNat < v.toNat + b.toNat := by
  simp [subBorrow]

end Sys2Proof.Machine
end

