-- ==== Sys2Proof/Laws/State.lean ====
section
/-! SUPPORT. One lemma per field per update of the state, each true by unfolding, and the get and set laws of the register
file. -/

namespace Sys2Proof.Machine

variable (s : State)

@[simp] theorem State.setReg_regs (r : Reg) (v : Byte) : (s.setReg r v).regs = s.regs.set r v := rfl
@[simp] theorem State.setReg_flags (r : Reg) (v : Byte) : (s.setReg r v).flags = s.flags := rfl
@[simp] theorem State.setReg_pc (r : Reg) (v : Byte) : (s.setReg r v).pc = s.pc := rfl
@[simp] theorem State.setReg_stp (r : Reg) (v : Byte) : (s.setReg r v).stp = s.stp := rfl
@[simp] theorem State.setReg_stack (r : Reg) (v : Byte) : (s.setReg r v).stack = s.stack := rfl
@[simp] theorem State.setReg_halted (r : Reg) (v : Byte) : (s.setReg r v).halted = s.halted := rfl
@[simp] theorem State.setReg_mem (r : Reg) (v : Byte) : (s.setReg r v).mem = s.mem := rfl
@[simp] theorem State.setReg_outputs (r : Reg) (v : Byte) : (s.setReg r v).outputs = s.outputs := rfl
@[simp] theorem State.setReg_memMap (r : Reg) (v : Byte) : (s.setReg r v).memMap = s.memMap := rfl
@[simp] theorem State.setReg_portReads (r : Reg) (v : Byte) : (s.setReg r v).portReads = s.portReads := rfl
@[simp] theorem State.setReg_unassigned (r : Reg) (v : Byte) : (s.setReg r v).unassigned = s.unassigned := rfl
@[simp] theorem State.setReg_unassignedRuns (r : Reg) (v : Byte) : (s.setReg r v).unassignedRuns = s.unassignedRuns := rfl

@[simp] theorem State.setFlags_regs (f : Flags) : (s.setFlags f).regs = s.regs := rfl
@[simp] theorem State.setFlags_flags (f : Flags) : (s.setFlags f).flags = f := rfl
@[simp] theorem State.setFlags_pc (f : Flags) : (s.setFlags f).pc = s.pc := rfl
@[simp] theorem State.setFlags_stp (f : Flags) : (s.setFlags f).stp = s.stp := rfl
@[simp] theorem State.setFlags_stack (f : Flags) : (s.setFlags f).stack = s.stack := rfl
@[simp] theorem State.setFlags_halted (f : Flags) : (s.setFlags f).halted = s.halted := rfl
@[simp] theorem State.setFlags_mem (f : Flags) : (s.setFlags f).mem = s.mem := rfl
@[simp] theorem State.setFlags_outputs (f : Flags) : (s.setFlags f).outputs = s.outputs := rfl
@[simp] theorem State.setFlags_memMap (f : Flags) : (s.setFlags f).memMap = s.memMap := rfl
@[simp] theorem State.setFlags_portReads (f : Flags) : (s.setFlags f).portReads = s.portReads := rfl
@[simp] theorem State.setFlags_unassigned (f : Flags) : (s.setFlags f).unassigned = s.unassigned := rfl
@[simp] theorem State.setFlags_unassignedRuns (f : Flags) : (s.setFlags f).unassignedRuns = s.unassignedRuns := rfl

@[simp] theorem State.setCy_regs (b : Bool) : (s.setCy b).regs = s.regs := rfl
@[simp] theorem State.setCy_flags (b : Bool) : (s.setCy b).flags = { s.flags with cy := b } := rfl
@[simp] theorem State.setCy_pc (b : Bool) : (s.setCy b).pc = s.pc := rfl
@[simp] theorem State.setCy_stp (b : Bool) : (s.setCy b).stp = s.stp := rfl
@[simp] theorem State.setCy_stack (b : Bool) : (s.setCy b).stack = s.stack := rfl
@[simp] theorem State.setCy_halted (b : Bool) : (s.setCy b).halted = s.halted := rfl
@[simp] theorem State.setCy_mem (b : Bool) : (s.setCy b).mem = s.mem := rfl
@[simp] theorem State.setCy_outputs (b : Bool) : (s.setCy b).outputs = s.outputs := rfl
@[simp] theorem State.setCy_memMap (b : Bool) : (s.setCy b).memMap = s.memMap := rfl
@[simp] theorem State.setCy_portReads (b : Bool) : (s.setCy b).portReads = s.portReads := rfl
@[simp] theorem State.setCy_unassigned (b : Bool) : (s.setCy b).unassigned = s.unassigned := rfl
@[simp] theorem State.setCy_unassignedRuns (b : Bool) : (s.setCy b).unassignedRuns = s.unassignedRuns := rfl

@[simp] theorem State.setPc_regs (t : Addr) : (s.setPc t).regs = s.regs := rfl
@[simp] theorem State.setPc_flags (t : Addr) : (s.setPc t).flags = s.flags := rfl
@[simp] theorem State.setPc_pc (t : Addr) : (s.setPc t).pc = t := rfl
@[simp] theorem State.setPc_stp (t : Addr) : (s.setPc t).stp = s.stp := rfl
@[simp] theorem State.setPc_stack (t : Addr) : (s.setPc t).stack = s.stack := rfl
@[simp] theorem State.setPc_halted (t : Addr) : (s.setPc t).halted = s.halted := rfl
@[simp] theorem State.setPc_mem (t : Addr) : (s.setPc t).mem = s.mem := rfl
@[simp] theorem State.setPc_outputs (t : Addr) : (s.setPc t).outputs = s.outputs := rfl
@[simp] theorem State.setPc_memMap (t : Addr) : (s.setPc t).memMap = s.memMap := rfl
@[simp] theorem State.setPc_portReads (t : Addr) : (s.setPc t).portReads = s.portReads := rfl
@[simp] theorem State.setPc_unassigned (t : Addr) : (s.setPc t).unassigned = s.unassigned := rfl
@[simp] theorem State.setPc_unassignedRuns (t : Addr) : (s.setPc t).unassignedRuns = s.unassignedRuns := rfl

@[simp] theorem State.advance_regs (n : Nat) : (s.advance n).regs = s.regs := rfl
@[simp] theorem State.advance_flags (n : Nat) : (s.advance n).flags = s.flags := rfl
@[simp] theorem State.advance_pc (n : Nat) : (s.advance n).pc = s.pc + BitVec.ofNat 14 n := rfl
@[simp] theorem State.advance_stp (n : Nat) : (s.advance n).stp = s.stp := rfl
@[simp] theorem State.advance_stack (n : Nat) : (s.advance n).stack = s.stack := rfl
@[simp] theorem State.advance_halted (n : Nat) : (s.advance n).halted = s.halted := rfl
@[simp] theorem State.advance_mem (n : Nat) : (s.advance n).mem = s.mem := rfl
@[simp] theorem State.advance_outputs (n : Nat) : (s.advance n).outputs = s.outputs := rfl
@[simp] theorem State.advance_memMap (n : Nat) : (s.advance n).memMap = s.memMap := rfl
@[simp] theorem State.advance_portReads (n : Nat) : (s.advance n).portReads = s.portReads := rfl
@[simp] theorem State.advance_unassigned (n : Nat) : (s.advance n).unassigned = s.unassigned := rfl
@[simp] theorem State.advance_unassignedRuns (n : Nat) : (s.advance n).unassignedRuns = s.unassignedRuns := rfl

@[simp] theorem State.poke_regs (a : Addr) (v : Byte) : (s.poke a v).regs = s.regs := rfl
@[simp] theorem State.poke_flags (a : Addr) (v : Byte) : (s.poke a v).flags = s.flags := rfl
@[simp] theorem State.poke_pc (a : Addr) (v : Byte) : (s.poke a v).pc = s.pc := rfl
@[simp] theorem State.poke_stp (a : Addr) (v : Byte) : (s.poke a v).stp = s.stp := rfl
@[simp] theorem State.poke_stack (a : Addr) (v : Byte) : (s.poke a v).stack = s.stack := rfl
@[simp] theorem State.poke_halted (a : Addr) (v : Byte) : (s.poke a v).halted = s.halted := rfl
@[simp] theorem State.poke_mem (a : Addr) (v : Byte) : (s.poke a v).mem = Memory.write s.mem a.toNat v := rfl
@[simp] theorem State.poke_outputs (a : Addr) (v : Byte) : (s.poke a v).outputs = s.outputs := rfl
@[simp] theorem State.poke_memMap (a : Addr) (v : Byte) : (s.poke a v).memMap = s.memMap := rfl
@[simp] theorem State.poke_portReads (a : Addr) (v : Byte) : (s.poke a v).portReads = s.portReads := rfl
@[simp] theorem State.poke_unassigned (a : Addr) (v : Byte) : (s.poke a v).unassigned = s.unassigned := rfl
@[simp] theorem State.poke_unassignedRuns (a : Addr) (v : Byte) : (s.poke a v).unassignedRuns = s.unassignedRuns := rfl

@[simp] theorem State.portWrite_regs (p : BitVec 5) (v : Byte) : (s.portWrite p v).regs = s.regs := rfl
@[simp] theorem State.portWrite_flags (p : BitVec 5) (v : Byte) : (s.portWrite p v).flags = s.flags := rfl
@[simp] theorem State.portWrite_pc (p : BitVec 5) (v : Byte) : (s.portWrite p v).pc = s.pc := rfl
@[simp] theorem State.portWrite_stp (p : BitVec 5) (v : Byte) : (s.portWrite p v).stp = s.stp := rfl
@[simp] theorem State.portWrite_stack (p : BitVec 5) (v : Byte) : (s.portWrite p v).stack = s.stack := rfl
@[simp] theorem State.portWrite_halted (p : BitVec 5) (v : Byte) : (s.portWrite p v).halted = s.halted := rfl
@[simp] theorem State.portWrite_mem (p : BitVec 5) (v : Byte) : (s.portWrite p v).mem = s.mem := rfl
@[simp] theorem State.portWrite_outputs (p : BitVec 5) (v : Byte) : (s.portWrite p v).outputs = s.outputs ++ [(p, v)] := rfl
@[simp] theorem State.portWrite_memMap (p : BitVec 5) (v : Byte) : (s.portWrite p v).memMap = s.memMap := rfl
@[simp] theorem State.portWrite_portReads (p : BitVec 5) (v : Byte) : (s.portWrite p v).portReads = s.portReads := rfl
@[simp] theorem State.portWrite_unassigned (p : BitVec 5) (v : Byte) : (s.portWrite p v).unassigned = s.unassigned := rfl
@[simp] theorem State.portWrite_unassignedRuns (p : BitVec 5) (v : Byte) : (s.portWrite p v).unassignedRuns = s.unassignedRuns := rfl

@[simp] theorem State.halt_regs : (s.halt).regs = s.regs := rfl
@[simp] theorem State.halt_flags : (s.halt).flags = s.flags := rfl
@[simp] theorem State.halt_pc : (s.halt).pc = s.pc + 1 := rfl
@[simp] theorem State.halt_stp : (s.halt).stp = s.stp := rfl
@[simp] theorem State.halt_stack : (s.halt).stack = s.stack := rfl
@[simp] theorem State.halt_halted : (s.halt).halted = true := rfl
@[simp] theorem State.halt_mem : (s.halt).mem = s.mem := rfl
@[simp] theorem State.halt_outputs : (s.halt).outputs = s.outputs := rfl
@[simp] theorem State.halt_memMap : (s.halt).memMap = s.memMap := rfl
@[simp] theorem State.halt_portReads : (s.halt).portReads = s.portReads := rfl
@[simp] theorem State.halt_unassigned : (s.halt).unassigned = s.unassigned := rfl
@[simp] theorem State.halt_unassignedRuns : (s.halt).unassignedRuns = s.unassignedRuns := rfl

@[simp] theorem State.logic8_regs (r : Byte) : (s.logic8 r).regs = s.regs.set .a r := rfl
@[simp] theorem State.logic8_flags (r : Byte) : (s.logic8 r).flags = Flags.ofResult false r := rfl
@[simp] theorem State.logic8_pc (r : Byte) : (s.logic8 r).pc = s.pc := rfl
@[simp] theorem State.logic8_stp (r : Byte) : (s.logic8 r).stp = s.stp := rfl
@[simp] theorem State.logic8_stack (r : Byte) : (s.logic8 r).stack = s.stack := rfl
@[simp] theorem State.logic8_halted (r : Byte) : (s.logic8 r).halted = s.halted := rfl
@[simp] theorem State.logic8_mem (r : Byte) : (s.logic8 r).mem = s.mem := rfl
@[simp] theorem State.logic8_outputs (r : Byte) : (s.logic8 r).outputs = s.outputs := rfl
@[simp] theorem State.logic8_memMap (r : Byte) : (s.logic8 r).memMap = s.memMap := rfl
@[simp] theorem State.logic8_portReads (r : Byte) : (s.logic8 r).portReads = s.portReads := rfl
@[simp] theorem State.logic8_unassigned (r : Byte) : (s.logic8 r).unassigned = s.unassigned := rfl
@[simp] theorem State.logic8_unassignedRuns (r : Byte) : (s.logic8 r).unassignedRuns = s.unassignedRuns := rfl

@[simp] theorem State.rotate_regs (r : Byte) (c : Bool) : (s.rotate r c).regs = s.regs.set .a r := rfl
@[simp] theorem State.rotate_flags (r : Byte) (c : Bool) : (s.rotate r c).flags = { s.flags with cy := c } := rfl
@[simp] theorem State.rotate_pc (r : Byte) (c : Bool) : (s.rotate r c).pc = s.pc := rfl
@[simp] theorem State.rotate_stp (r : Byte) (c : Bool) : (s.rotate r c).stp = s.stp := rfl
@[simp] theorem State.rotate_stack (r : Byte) (c : Bool) : (s.rotate r c).stack = s.stack := rfl
@[simp] theorem State.rotate_halted (r : Byte) (c : Bool) : (s.rotate r c).halted = s.halted := rfl
@[simp] theorem State.rotate_mem (r : Byte) (c : Bool) : (s.rotate r c).mem = s.mem := rfl
@[simp] theorem State.rotate_outputs (r : Byte) (c : Bool) : (s.rotate r c).outputs = s.outputs := rfl
@[simp] theorem State.rotate_memMap (r : Byte) (c : Bool) : (s.rotate r c).memMap = s.memMap := rfl
@[simp] theorem State.rotate_portReads (r : Byte) (c : Bool) : (s.rotate r c).portReads = s.portReads := rfl
@[simp] theorem State.rotate_unassigned (r : Byte) (c : Bool) : (s.rotate r c).unassigned = s.unassigned := rfl
@[simp] theorem State.rotate_unassignedRuns (r : Byte) (c : Bool) : (s.rotate r c).unassignedRuns = s.unassignedRuns := rfl

@[simp] theorem State.countTo_regs (r : Reg) (v : Byte) : (s.countTo r v).regs = s.regs.set r v := rfl
@[simp] theorem State.countTo_flags (r : Reg) (v : Byte) : (s.countTo r v).flags = s.flags.setZSP v := rfl
@[simp] theorem State.countTo_pc (r : Reg) (v : Byte) : (s.countTo r v).pc = s.pc := rfl
@[simp] theorem State.countTo_stp (r : Reg) (v : Byte) : (s.countTo r v).stp = s.stp := rfl
@[simp] theorem State.countTo_stack (r : Reg) (v : Byte) : (s.countTo r v).stack = s.stack := rfl
@[simp] theorem State.countTo_halted (r : Reg) (v : Byte) : (s.countTo r v).halted = s.halted := rfl
@[simp] theorem State.countTo_mem (r : Reg) (v : Byte) : (s.countTo r v).mem = s.mem := rfl
@[simp] theorem State.countTo_outputs (r : Reg) (v : Byte) : (s.countTo r v).outputs = s.outputs := rfl
@[simp] theorem State.countTo_memMap (r : Reg) (v : Byte) : (s.countTo r v).memMap = s.memMap := rfl
@[simp] theorem State.countTo_portReads (r : Reg) (v : Byte) : (s.countTo r v).portReads = s.portReads := rfl
@[simp] theorem State.countTo_unassigned (r : Reg) (v : Byte) : (s.countTo r v).unassigned = s.unassigned := rfl
@[simp] theorem State.countTo_unassignedRuns (r : Reg) (v : Byte) : (s.countTo r v).unassignedRuns = s.unassignedRuns := rfl

@[simp] theorem State.add8_regs (v : Byte) (c : Bool) : (s.add8 v c).regs = s.regs.set .a (addResult s.regs.a v c) := rfl
@[simp] theorem State.add8_flags (v : Byte) (c : Bool) : (s.add8 v c).flags = Flags.ofResult (addCarry s.regs.a v c) (addResult s.regs.a v c) := rfl
@[simp] theorem State.add8_pc (v : Byte) (c : Bool) : (s.add8 v c).pc = s.pc := rfl
@[simp] theorem State.add8_stp (v : Byte) (c : Bool) : (s.add8 v c).stp = s.stp := rfl
@[simp] theorem State.add8_stack (v : Byte) (c : Bool) : (s.add8 v c).stack = s.stack := rfl
@[simp] theorem State.add8_halted (v : Byte) (c : Bool) : (s.add8 v c).halted = s.halted := rfl
@[simp] theorem State.add8_mem (v : Byte) (c : Bool) : (s.add8 v c).mem = s.mem := rfl
@[simp] theorem State.add8_outputs (v : Byte) (c : Bool) : (s.add8 v c).outputs = s.outputs := rfl
@[simp] theorem State.add8_memMap (v : Byte) (c : Bool) : (s.add8 v c).memMap = s.memMap := rfl
@[simp] theorem State.add8_portReads (v : Byte) (c : Bool) : (s.add8 v c).portReads = s.portReads := rfl
@[simp] theorem State.add8_unassigned (v : Byte) (c : Bool) : (s.add8 v c).unassigned = s.unassigned := rfl
@[simp] theorem State.add8_unassignedRuns (v : Byte) (c : Bool) : (s.add8 v c).unassignedRuns = s.unassignedRuns := rfl

@[simp] theorem State.compare8_regs (v : Byte) : (s.compare8 v).regs = s.regs := rfl
@[simp] theorem State.compare8_flags (v : Byte) : (s.compare8 v).flags = Flags.ofResult (subBorrow s.regs.a v false) (subResult s.regs.a v false) := rfl
@[simp] theorem State.compare8_pc (v : Byte) : (s.compare8 v).pc = s.pc := rfl
@[simp] theorem State.compare8_stp (v : Byte) : (s.compare8 v).stp = s.stp := rfl
@[simp] theorem State.compare8_stack (v : Byte) : (s.compare8 v).stack = s.stack := rfl
@[simp] theorem State.compare8_halted (v : Byte) : (s.compare8 v).halted = s.halted := rfl
@[simp] theorem State.compare8_mem (v : Byte) : (s.compare8 v).mem = s.mem := rfl
@[simp] theorem State.compare8_outputs (v : Byte) : (s.compare8 v).outputs = s.outputs := rfl
@[simp] theorem State.compare8_memMap (v : Byte) : (s.compare8 v).memMap = s.memMap := rfl
@[simp] theorem State.compare8_portReads (v : Byte) : (s.compare8 v).portReads = s.portReads := rfl
@[simp] theorem State.compare8_unassigned (v : Byte) : (s.compare8 v).unassigned = s.unassigned := rfl
@[simp] theorem State.compare8_unassignedRuns (v : Byte) : (s.compare8 v).unassignedRuns = s.unassignedRuns := rfl

@[simp] theorem State.sub8_regs (v : Byte) (b : Bool) : (s.sub8 v b true).regs = s.regs.set .a (subResult s.regs.a v b) := rfl
@[simp] theorem State.sub8_flags (v : Byte) (b : Bool) : (s.sub8 v b true).flags = Flags.ofResult (subBorrow s.regs.a v b) (subResult s.regs.a v b) := rfl
@[simp] theorem State.sub8_pc (v : Byte) (b : Bool) : (s.sub8 v b true).pc = s.pc := rfl
@[simp] theorem State.sub8_stp (v : Byte) (b : Bool) : (s.sub8 v b true).stp = s.stp := rfl
@[simp] theorem State.sub8_stack (v : Byte) (b : Bool) : (s.sub8 v b true).stack = s.stack := rfl
@[simp] theorem State.sub8_halted (v : Byte) (b : Bool) : (s.sub8 v b true).halted = s.halted := rfl
@[simp] theorem State.sub8_mem (v : Byte) (b : Bool) : (s.sub8 v b true).mem = s.mem := rfl
@[simp] theorem State.sub8_outputs (v : Byte) (b : Bool) : (s.sub8 v b true).outputs = s.outputs := rfl
@[simp] theorem State.sub8_memMap (v : Byte) (b : Bool) : (s.sub8 v b true).memMap = s.memMap := rfl
@[simp] theorem State.sub8_portReads (v : Byte) (b : Bool) : (s.sub8 v b true).portReads = s.portReads := rfl
@[simp] theorem State.sub8_unassigned (v : Byte) (b : Bool) : (s.sub8 v b true).unassigned = s.unassigned := rfl
@[simp] theorem State.sub8_unassignedRuns (v : Byte) (b : Bool) : (s.sub8 v b true).unassignedRuns = s.unassignedRuns := rfl

@[simp] theorem State.portRead_snd_regs (p : BitVec 3) : (s.portRead p).2.regs = s.regs := rfl
@[simp] theorem State.portRead_snd_flags (p : BitVec 3) : (s.portRead p).2.flags = s.flags := rfl
@[simp] theorem State.portRead_snd_pc (p : BitVec 3) : (s.portRead p).2.pc = s.pc := rfl
@[simp] theorem State.portRead_snd_stp (p : BitVec 3) : (s.portRead p).2.stp = s.stp := rfl
@[simp] theorem State.portRead_snd_stack (p : BitVec 3) : (s.portRead p).2.stack = s.stack := rfl
@[simp] theorem State.portRead_snd_halted (p : BitVec 3) : (s.portRead p).2.halted = s.halted := rfl
@[simp] theorem State.portRead_snd_mem (p : BitVec 3) : (s.portRead p).2.mem = s.mem := rfl
@[simp] theorem State.portRead_snd_outputs (p : BitVec 3) : (s.portRead p).2.outputs = s.outputs := rfl
@[simp] theorem State.portRead_snd_memMap (p : BitVec 3) : (s.portRead p).2.memMap = s.memMap := rfl
@[simp] theorem State.portRead_snd_portReads (p : BitVec 3) : (s.portRead p).2.portReads = s.portReads + 1 := rfl
@[simp] theorem State.portRead_snd_unassigned (p : BitVec 3) : (s.portRead p).2.unassigned = s.unassigned := rfl
@[simp] theorem State.portRead_snd_unassignedRuns (p : BitVec 3) : (s.portRead p).2.unassignedRuns = s.unassignedRuns := rfl
@[simp] theorem State.portRead_fst (p : BitVec 3) : (s.portRead p).1 = Config.portByte s.portReads p := rfl

/-! ### The register file and the flags -/

/-- What is written to a register is read from it; every other register is its own storage (R24). -/
theorem Regs.get_set (x : Regs) (r r' : Reg) (v : Byte) : (x.set r v).get r' = if r' = r then v else x.get r' := by
  cases r <;> cases r' <;> rfl

@[simp] theorem Regs.get_set_same (x : Regs) (r : Reg) (v : Byte) : (x.set r v).get r = v := by
  cases r <;> rfl

theorem Regs.get_set_of_ne (x : Regs) (r r' : Reg) (v : Byte) (h : r' ≠ r) : (x.set r v).get r' = x.get r' := by
  simp [Regs.get_set, h]

@[simp] theorem Regs.set_get (x : Regs) (r : Reg) : x.set r (x.get r) = x := by
  cases r <;> rfl

@[simp] theorem Regs.set_a_a (x : Regs) (v : Byte) : (x.set .a v).a = v := rfl

@[simp] theorem Regs.get_a (x : Regs) : x.get .a = x.a := rfl

/-- Register files that agree on every register are equal. -/
theorem Regs.ext_get (x y : Regs) (h : ∀ r, x.get r = y.get r) : x = y := by
  have ha := h .a
  have hb := h .b
  have hc := h .c
  have hd := h .d
  have he := h .e
  have hh := h .h
  have hl := h .l
  cases x
  cases y
  simp_all [Regs.get]

theorem Flags.setZSP_get_cy (f : Flags) (v : Byte) : (f.setZSP v).get .cy = f.get .cy := rfl

/-- Flag records that agree on every flag are equal. -/
theorem Flags.ext_get (x y : Flags) (h : ∀ c, x.get c = y.get c) : x = y := by
  have hc := h .cy
  have hz := h .z
  have hs := h .s
  have hp := h .p
  cases x
  cases y
  simp_all [Flags.get]

end Sys2Proof.Machine
end

