-- ==== Sys2Proof/Laws/Ops.lean ====
section
/-! SUPPORT. For each shared operation, once, everything it can do. -/

namespace Sys2Proof.Machine

/-! ### Memory accesses -/

/-- A cell after a poke: the byte poked, or what it held (R57, R61). -/
theorem State.byteAt_poke (s : State) (a b : Addr) (v : Byte) :
    (s.poke a v).byteAt b = if b = a then v else s.byteAt b := by
  simp only [State.byteAt, State.poke_mem, Memory.read_write]
  by_cases h : b = a
  · simp [h]
  · have h' : b.toNat ≠ a.toNat := fun e => h (BitVec.eq_of_toNat_eq e)
    simp [h, h']

@[simp] theorem State.byteAt_poke_same (s : State) (a : Addr) (v : Byte) : (s.poke a v).byteAt a = v := by
  simp [State.byteAt_poke]

/-- What a cell holds depends on the memory only. -/
theorem State.byteAt_congr (s t : State) (h : t.mem = s.mem) (a : Addr) : t.byteAt a = s.byteAt a := by
  simp [State.byteAt, h]

/-- A load either answers the cell of a readable address or the fault of an unreadable one (R56). -/
theorem State.loadByte_eq (s : State) (a : Addr) :
    (s.readable a = true ∧ s.loadByte a = .ok (s.byteAt a)) ∨
      (s.readable a = false ∧ s.loadByte a = .error (.unmappedAccess a)) := by
  by_cases h : s.readable a = true
  · exact .inl ⟨h, if_pos h⟩
  · exact .inr ⟨by simpa using h, if_neg h⟩

/-- A store either pokes a writable cell or answers the fault of an unwritable one (R57). -/
theorem State.storeByte_eq (s : State) (a : Addr) (v : Byte) :
    (s.writable a = true ∧ s.storeByte a v = .ok (s.poke a v)) ∨
      (s.writable a = false ∧ s.storeByte a v = .error (.unmappedAccess a)) := by
  by_cases h : s.writable a = true
  · exact .inl ⟨h, if_pos h⟩
  · exact .inr ⟨by simpa using h, if_neg h⟩

theorem State.readable_of_writable (s : State) (a : Addr) (h : s.writable a = true) : s.readable a = true := by
  simp only [State.writable, beq_iff_eq] at h
  simp [State.readable, h]

/-! ### Sequencing -/

/-- If a sequence answers a next state, its first part answered a value. -/
theorem orFault_next {α : Type} (x : Except Fault α) (k : α → Result) (t : State) (h : orFault x k = .next t) :
    ∃ v, x = .ok v ∧ k v = .next t := by
  cases x with
  | ok v => exact ⟨v, rfl, h⟩
  | error f => cases h

@[simp] theorem orFault_ok {α : Type} (v : α) (k : α → Result) : orFault (.ok v) k = k v := rfl

@[simp] theorem orFault_error {α : Type} (f : Fault) (k : α → Result) :
    orFault (.error f : Except Fault α) k = .fault f := rfl

/-- An M operand: either the address is readable and the meaning goes on with the byte, or it faults (R33, R56). -/
theorem State.withM_eq (s : State) (k : Byte → Result) :
    (s.readable s.maddr = true ∧ s.withM k = k (s.byteAt s.maddr)) ∨
      (s.readable s.maddr = false ∧ s.withM k = .fault (.unmappedAccess s.maddr)) := by
  rcases s.loadByte_eq s.maddr with ⟨h, e⟩ | ⟨h, e⟩
  · exact .inl ⟨h, by simp [State.withM, e]⟩
  · exact .inr ⟨h, by simp [State.withM, e]⟩

theorem State.withM_next (s : State) (k : Byte → Result) (t : State) (h : s.withM k = .next t) :
    s.readable s.maddr = true ∧ k (s.byteAt s.maddr) = .next t := by
  rcases s.withM_eq k with ⟨hr, e⟩ | ⟨hr, e⟩
  · exact ⟨hr, e ▸ h⟩
  · rw [e] at h
    cases h

/-- A store to M: either the address is writable and the meaning goes on from the poked state, or it faults (R33, R57). -/
theorem State.storeM_eq (s : State) (v : Byte) (k : State → Result) :
    (s.writable s.maddr = true ∧ s.storeM v k = k (s.poke s.maddr v)) ∨
      (s.writable s.maddr = false ∧ s.storeM v k = .fault (.unmappedAccess s.maddr)) := by
  rcases s.storeByte_eq s.maddr v with ⟨h, e⟩ | ⟨h, e⟩
  · exact .inl ⟨h, by simp [State.storeM, e]⟩
  · exact .inr ⟨h, by simp [State.storeM, e]⟩

theorem State.storeM_next (s : State) (v : Byte) (k : State → Result) (t : State) (h : s.storeM v k = .next t) :
    s.writable s.maddr = true ∧ k (s.poke s.maddr v) = .next t := by
  rcases s.storeM_eq v k with ⟨hw, e⟩ | ⟨hw, e⟩
  · exact ⟨hw, e ▸ h⟩
  · rw [e] at h
    cases h

/-- What a cell holds does not depend on where the program counter stands. -/
@[simp] theorem State.byteAt_advance (s : State) (len : Nat) (a : Addr) : (s.advance len).byteAt a = s.byteAt a := rfl

@[simp] theorem State.maddr_advance (s : State) (len : Nat) : (s.advance len).maddr = s.maddr := rfl

/-! ### Address stack -/

/-- A push either writes the entry at the pointer and moves it up, or overflows (R37). -/
theorem State.push_eq (s : State) (v : Addr) :
    (s.stp < s.stack.length ∧ s.push v = .ok { s with stack := s.stack.set s.stp v, stp := s.stp + 1 }) ∨
      (s.stack.length ≤ s.stp ∧ s.push v = .error (.stackOverflow s.pc)) := by
  by_cases h : s.stp < s.stack.length
  · exact .inl ⟨h, if_pos h⟩
  · exact .inr ⟨by omega, if_neg h⟩

/-- A pop either moves the pointer down and answers the entry it then names, or underflows (R37). -/
theorem State.pop_eq (s : State) :
    (∃ v, 0 < s.stp ∧ s.stack[s.stp - 1]? = some v ∧ s.pop = .ok (v, { s with stp := s.stp - 1 })) ∨
      ((s.stp = 0 ∨ s.stack.length < s.stp) ∧ s.pop = .error (.stackUnderflow s.pc)) := by
  cases hs : s.stp with
  | zero => exact .inr ⟨.inl rfl, by simp [State.pop, hs]⟩
  | succ n =>
    cases hv : s.stack[n]? with
    | some v => exact .inl ⟨v, by omega, by simpa using hv, by simp [State.pop, hs, hv]⟩
    | none =>
      refine .inr ⟨.inr ?_, by simp [State.pop, hs, hv]⟩
      have := List.getElem?_eq_none_iff.mp hv
      omega

/-- A call or restart either pushes and goes to its target, or overflows (R180, R190). -/
theorem State.callTo_eq (s : State) (len : Nat) (target : Addr) :
    (s.stp < s.stack.length ∧ s.callTo len target =
      .next { s with stack := s.stack.set s.stp (s.pc + BitVec.ofNat 14 len), stp := s.stp + 1, pc := target }) ∨
      (s.stack.length ≤ s.stp ∧ s.callTo len target = .fault (.stackOverflow s.pc)) := by
  rcases s.push_eq (s.pc + BitVec.ofNat 14 len) with ⟨h, e⟩ | ⟨h, e⟩
  · exact .inl ⟨h, by simp [State.callTo, e, State.setPc]⟩
  · exact .inr ⟨h, by simp [State.callTo, e]⟩

theorem State.callTo_next (s : State) (len : Nat) (target : Addr) (t : State) (h : s.callTo len target = .next t) :
    s.stp < s.stack.length ∧
      t = { s with stack := s.stack.set s.stp (s.pc + BitVec.ofNat 14 len), stp := s.stp + 1, pc := target } := by
  rcases s.callTo_eq len target with ⟨hl, e⟩ | ⟨_, e⟩
  · rw [e] at h
    cases h
    exact ⟨hl, rfl⟩
  · rw [e] at h
    cases h

/-- A return either pops and goes to the popped address, or underflows (R185). -/
theorem State.returnFrom_eq (s : State) :
    (∃ v, 0 < s.stp ∧ s.stack[s.stp - 1]? = some v ∧ s.returnFrom = .next { s with stp := s.stp - 1, pc := v }) ∨
      ((s.stp = 0 ∨ s.stack.length < s.stp) ∧ s.returnFrom = .fault (.stackUnderflow s.pc)) := by
  rcases s.pop_eq with ⟨v, h, hv, e⟩ | ⟨h, e⟩
  · exact .inl ⟨v, h, hv, by simp [State.returnFrom, e, State.setPc]⟩
  · exact .inr ⟨h, by simp [State.returnFrom, e]⟩

theorem State.returnFrom_next (s : State) (t : State) (h : s.returnFrom = .next t) :
    ∃ v, 0 < s.stp ∧ s.stack[s.stp - 1]? = some v ∧ t = { s with stp := s.stp - 1, pc := v } := by
  rcases s.returnFrom_eq with ⟨v, hp, hv, e⟩ | ⟨_, e⟩
  · rw [e] at h
    cases h
    exact ⟨v, hp, hv, rfl⟩
  · rw [e] at h
    cases h

/-! ### Unassigned opcode bytes -/

@[simp] theorem State.afterUnassigned_halted (s : State) (b : Byte) : (s.afterUnassigned b).halted = s.halted := rfl
@[simp] theorem State.afterUnassigned_mem (s : State) (b : Byte) : (s.afterUnassigned b).mem = s.mem := rfl
@[simp] theorem State.afterUnassigned_memMap (s : State) (b : Byte) : (s.afterUnassigned b).memMap = s.memMap := rfl
@[simp] theorem State.afterUnassigned_portReads (s : State) (b : Byte) : (s.afterUnassigned b).portReads = s.portReads := rfl
@[simp] theorem State.afterUnassigned_unassigned (s : State) (b : Byte) : (s.afterUnassigned b).unassigned = s.unassigned := rfl
@[simp] theorem State.afterUnassigned_unassignedRuns (s : State) (b : Byte) :
    (s.afterUnassigned b).unassignedRuns = s.unassignedRuns + 1 := rfl
@[simp] theorem State.afterUnassigned_outputs (s : State) (b : Byte) :
    (s.afterUnassigned b).outputs = s.outputs ++ unassignedEvents s.unassignedRuns b := rfl

@[simp] theorem State.afterUnassigned_stack_length (s : State) (b : Byte) :
    (s.afterUnassigned b).stack.length = s.stack.length := by
  simp [State.afterUnassigned]

theorem State.afterUnassigned_stp_le (s : State) (b : Byte) :
    (s.afterUnassigned b).stp ≤ (s.afterUnassigned b).stack.length := by
  rw [State.afterUnassigned_stack_length]
  exact Nat.le_of_lt_succ (Nat.mod_lt _ (Nat.succ_pos _))

/-- An unassigned byte makes no output event or one, at a port 8 to 31 (R41). -/
theorem unassignedEvents_eq (n : Nat) (b : Byte) :
    unassignedEvents n b = [] ∨ ∃ p v, unassignedEvents n b = [(p, v)] ∧ 8 ≤ p.toNat := by
  unfold unassignedEvents
  cases Config.unassignedOutput n b with
  | none => exact .inl rfl
  | some e =>
    refine .inr ⟨_, _, rfl, ?_⟩
    have := e.1.isLt
    rw [BitVec.toNat_ofNat]
    omega

/-- The free effect of an unassigned byte: it leaves memory alone, or writes one cell the map lets it write, or faults there
(R57, log 9). -/
theorem State.runUnassigned_eq (s : State) (b : Byte) :
    (Config.unassignedStore s.unassignedRuns b = none ∧ s.runUnassigned b = .next (s.afterUnassigned b)) ∨
      ∃ a v, Config.unassignedStore s.unassignedRuns b = some (a, v) ∧
        ((s.writable a = true ∧ s.runUnassigned b = .next ((s.afterUnassigned b).poke a v)) ∨
          (s.writable a = false ∧ s.runUnassigned b = .fault (.unmappedAccess a))) := by
  cases h : Config.unassignedStore s.unassignedRuns b with
  | none => exact .inl ⟨rfl, by simp [State.runUnassigned, h]⟩
  | some e =>
    refine .inr ⟨e.1, e.2, rfl, ?_⟩
    rcases (s.afterUnassigned b).storeByte_eq e.1 e.2 with ⟨hw, he⟩ | ⟨hw, he⟩
    · exact .inl ⟨hw, by simp [State.runUnassigned, h, he]⟩
    · exact .inr ⟨hw, by simp [State.runUnassigned, h, he]⟩

theorem State.runUnassigned_next (s : State) (b : Byte) (t : State) (h : s.runUnassigned b = .next t) :
    t = s.afterUnassigned b ∨ ∃ a v, s.writable a = true ∧ t = (s.afterUnassigned b).poke a v := by
  rcases s.runUnassigned_eq b with ⟨_, e⟩ | ⟨a, v, _, ⟨hw, e⟩ | ⟨_, e⟩⟩ <;> rw [e] at h <;> cases h
  · exact .inl rfl
  · exact .inr ⟨a, v, hw, rfl⟩

end Sys2Proof.Machine
end

