-- ==== Sys2Proof/Laws/PerInstr.lean ====
section
/-! SUPPORT. A family of statements about every instruction as syntax, one lemma per constructor: the length of its encoding is
1 plus the number of operand bytes its cycles read from behind the opcode byte (30_encoding R70, 20_memory R53). -/

namespace Sys2Proof.Laws.EncodeLength

open Sys2Proof Sys2Proof.Machine

/-- The number of operand bytes of an instruction's format: F1 none, F2 one, F3 two (R70). -/
def operandBytes : Instr → Nat
  | .mviR _ _ | .mviM _ | .adi _ | .aci _ | .sui _ | .sbi _ | .ani _ | .xri _ | .ori _ | .cpi _ => 1
  | .jmp _ | .jf _ _ | .jt _ _ | .call _ | .cf _ _ | .ct _ _ => 2
  | _ => 0

/-- The encoding has the length its format gives (R70). -/
def Statement (i : Instr) : Prop := i.length = 1 + operandBytes i

theorem movRR (dst : Reg) (src : Reg) : Statement (.movRR dst src) := rfl
theorem movRM (dst : Reg) : Statement (.movRM dst) := rfl
theorem mviR (dst : Reg) (imm : Byte) : Statement (.mviR dst imm) := rfl
theorem movMR (src : Reg) : Statement (.movMR src) := rfl
theorem mviM (imm : Byte) : Statement (.mviM imm) := rfl
theorem incR (dst : Reg) : Statement (.incR dst) := rfl
theorem dcrR (dst : Reg) : Statement (.dcrR dst) := rfl
theorem rlc : Statement .rlc := rfl
theorem rrc : Statement .rrc := rfl
theorem ral : Statement .ral := rfl
theorem rar : Statement .rar := rfl
theorem addR (src : Reg) : Statement (.addR src) := rfl
theorem addM : Statement .addM := rfl
theorem adi (imm : Byte) : Statement (.adi imm) := rfl
theorem adcR (src : Reg) : Statement (.adcR src) := rfl
theorem adcM : Statement .adcM := rfl
theorem aci (imm : Byte) : Statement (.aci imm) := rfl
theorem subR (src : Reg) : Statement (.subR src) := rfl
theorem subM : Statement .subM := rfl
theorem sui (imm : Byte) : Statement (.sui imm) := rfl
theorem sbbR (src : Reg) : Statement (.sbbR src) := rfl
theorem sbbM : Statement .sbbM := rfl
theorem sbi (imm : Byte) : Statement (.sbi imm) := rfl
theorem anaR (src : Reg) : Statement (.anaR src) := rfl
theorem anaM : Statement .anaM := rfl
theorem ani (imm : Byte) : Statement (.ani imm) := rfl
theorem oraR (src : Reg) : Statement (.oraR src) := rfl
theorem oraM : Statement .oraM := rfl
theorem ori (imm : Byte) : Statement (.ori imm) := rfl
theorem xraR (src : Reg) : Statement (.xraR src) := rfl
theorem xraM : Statement .xraM := rfl
theorem xri (imm : Byte) : Statement (.xri imm) := rfl
theorem cmpR (src : Reg) : Statement (.cmpR src) := rfl
theorem cmpM : Statement .cmpM := rfl
theorem cpi (imm : Byte) : Statement (.cpi imm) := rfl
theorem jmp (target : Addr) : Statement (.jmp target) := rfl
theorem jf (cond : Flag) (target : Addr) : Statement (.jf cond target) := rfl
theorem jt (cond : Flag) (target : Addr) : Statement (.jt cond target) := rfl
theorem call (target : Addr) : Statement (.call target) := rfl
theorem cf (cond : Flag) (target : Addr) : Statement (.cf cond target) := rfl
theorem ct (cond : Flag) (target : Addr) : Statement (.ct cond target) := rfl
theorem ret : Statement .ret := rfl
theorem rf (cond : Flag) : Statement (.rf cond) := rfl
theorem rt (cond : Flag) : Statement (.rt cond) := rfl
theorem rst (n : BitVec 3) : Statement (.rst n) := rfl
theorem inp (port : BitVec 3) : Statement (.inp port) := rfl
theorem out (port : BitVec 5) : Statement (.out port) := rfl
theorem hlt : Statement .hlt := rfl
theorem hltFF : Statement .hltFF := rfl
theorem nop : Statement .nop := rfl

end Sys2Proof.Laws.EncodeLength
end

