-- ==== Sys2Proof/Laws/Step.lean ====
section
/-! SUPPORT. What a fetch and a step can do. -/

namespace Sys2Proof.Machine

/-- If a step answers a next state, it fetched an instruction and ran it (R10), or it fetched an unassigned byte where
`unassigned_opcode` is not `fault`, and ran that (R85). -/
theorem step_next (s t : State) (h : step s = .next t) :
    (∃ i, s.fetch = .ok i ∧ exec i s = .next t) ∨
      ∃ b p, s.fetch = .error (.illegalOpcode b p) ∧ s.unassigned = .free ∧ s.runUnassigned b = .next t := by
  unfold step at h
  cases hf : s.fetch with
  | ok i =>
    rw [hf] at h
    exact .inl ⟨i, rfl, h⟩
  | error e =>
    rw [hf] at h
    cases e with
    | illegalOpcode b p =>
      simp only [State.onFetchFault, State.unassignedByte] at h
      cases hu : s.unassigned with
      | fault =>
        rw [hu] at h
        cases h
      | free =>
        rw [hu] at h
        exact .inr ⟨b, p, rfl, rfl, h⟩
    | stackOverflow p => cases h
    | stackUnderflow p => cases h
    | unmappedAccess a => cases h
    | halted => cases h

theorem step_of_fetch (s : State) (i : Instr) (h : s.fetch = .ok i) : step s = exec i s := by
  simp [step, h]

theorem step_of_fetch_error (s : State) (f : Fault) (h : s.fetch = .error f) : step s = s.onFetchFault f := by
  simp [step, h]

/-- A fetch that the map or the halted state stops, stops the step. -/
theorem step_of_unmapped (s : State) (a : Addr) (h : s.fetch = .error (.unmappedAccess a)) :
    step s = .fault (.unmappedAccess a) := by
  simp [step, h, State.onFetchFault]

theorem step_of_halted (s : State) (h : s.fetch = .error .halted) : step s = .fault .halted := by
  simp [step, h, State.onFetchFault]

/-- A fetch of an unassigned byte: the fault, or the free effect, as the parameter says (R85). -/
theorem step_of_illegal (s : State) (b : Byte) (p : Addr) (h : s.fetch = .error (.illegalOpcode b p)) :
    step s = s.unassignedByte b := by
  simp [step, h, State.onFetchFault]

@[simp] theorem fetch_halted (s : State) (h : s.halted = true) : s.fetch = .error .halted := by
  simp [State.fetch, h]

/-- The opcode fetch is the first access to fault (R227). -/
theorem fetch_unreadable (s : State) (h : s.halted = false) (hr : s.readable s.pc = false) :
    s.fetch = .error (.unmappedAccess s.pc) := by
  simp [State.fetch, h, State.loadByte, hr]

/-- With a readable opcode byte the fetch is decided by that byte and the operand reads (R10, R227). -/
theorem fetch_readable (s : State) (h : s.halted = false) (hr : s.readable s.pc = true) :
    s.fetch = match decodeHead (s.byteAt s.pc) with
      | none => .error (.illegalOpcode (s.byteAt s.pc) s.pc)
      | some hd => s.fetchOperands hd := by
  simp only [State.fetch, h, State.loadByte, hr]
  rfl

/-- Format F2 reads one operand byte (R53). -/
theorem fetchOperands_f2 (s : State) (build : Byte → Instr) :
    s.fetchOperands (.f2 build) =
      if s.readable (s.pc + 1) then .ok (build (s.byteAt (s.pc + 1))) else .error (.unmappedAccess (s.pc + 1)) := by
  simp only [State.fetchOperands, State.loadByte]
  cases s.readable (s.pc + 1) <;> rfl

/-- Format F3 reads two operand bytes, the lower address first (R53, R227). -/
theorem fetchOperands_f3 (s : State) (build : Addr → Instr) :
    s.fetchOperands (.f3 build) =
      if s.readable (s.pc + 1) then
        if s.readable (s.pc + 2) then .ok (build (joinAddr (s.byteAt (s.pc + 1)) (s.byteAt (s.pc + 2))))
        else .error (.unmappedAccess (s.pc + 2))
      else .error (.unmappedAccess (s.pc + 1)) := by
  simp only [State.fetchOperands, State.loadByte]
  cases s.readable (s.pc + 1) <;> cases s.readable (s.pc + 2) <;> rfl

/-- A fetch that meets an unassigned byte: the machine was running, the byte stood, readable, at `pc`, and the decoder knows no
instruction for it (R85, R227). -/
theorem fetch_illegal (s : State) (b : Byte) (p : Addr) (h : s.fetch = .error (.illegalOpcode b p)) :
    s.halted = false ∧ s.readable s.pc = true ∧ b = s.byteAt s.pc ∧ p = s.pc ∧ decodeHead (s.byteAt s.pc) = none := by
  have hh : s.halted = false := by
    by_contra hc
    rw [fetch_halted s (by simpa using hc)] at h
    cases h
  cases hr : s.readable s.pc with
  | false =>
    rw [fetch_unreadable s hh hr] at h
    cases h
  | true =>
    rw [fetch_readable s hh hr] at h
    cases hd : decodeHead (s.byteAt s.pc) with
    | none =>
      rw [hd] at h
      cases h
      exact ⟨hh, rfl, rfl, rfl, rfl⟩
    | some head =>
      rw [hd] at h
      cases head with
      | f1 j => cases h
      | f2 build =>
        simp only [fetchOperands_f2] at h
        split at h <;> cases h
      | f3 build =>
        simp only [fetchOperands_f3] at h
        split at h
        · split at h <;> cases h
        · cases h

/-- A fetched instruction is the one the decoder reads from the bytes at `pc`, and the machine was running (R10). -/
theorem decode_window_of_fetch (s : State) (i : Instr) (h : s.fetch = .ok i) :
    s.halted = false ∧ ∃ rest, decode s.window = .ok (i, rest) := by
  have hh : s.halted = false := by
    by_contra hc
    rw [fetch_halted s (by simpa using hc)] at h
    cases h
  refine ⟨hh, ?_⟩
  cases hr : s.readable s.pc with
  | false =>
    rw [fetch_unreadable s hh hr] at h
    cases h
  | true =>
    rw [fetch_readable s hh hr] at h
    simp only [State.window, decode]
    cases hd : decodeHead (s.byteAt s.pc) with
    | none =>
      rw [hd] at h
      cases h
    | some head =>
      rw [hd] at h
      cases head with
      | f1 j =>
        cases h
        exact ⟨_, rfl⟩
      | f2 build =>
        simp only [fetchOperands_f2] at h
        split at h <;> cases h
        exact ⟨_, rfl⟩
      | f3 build =>
        simp only [fetchOperands_f3] at h
        split at h
        · split at h <;> cases h
          exact ⟨_, rfl⟩
        · cases h

end Sys2Proof.Machine
end

