-- ==== Sys2Proof/Tests/Slice0.lean ====
section
/-! SUPPORT. Tests. Expected values come from the spec: words written out bit by bit from the encoding column (30_encoding R82,
R83, R87 and the rule of each instruction), results from the examples of the rules and from 95_test_vectors. The theorems named
`witness_…` show a concrete state and operands that meet all hypotheses of the obligation they name. -/

namespace Sys2Proof.Tests

open Sys2Proof.Machine

/-! ### Helpers -/

/-- The state "before" of the vectors of 95_test_vectors part 2: all registers 0x00, all flags 0, `stp` = 0, `pc` = 0. -/
def start : State where
  regs := { a := 0, b := 0, c := 0, d := 0, e := 0, h := 0, l := 0 }
  flags := { cy := false, z := false, s := false, p := false }
  pc := 0
  stp := 0
  stack := List.replicate 7 0
  halted := false
  mem := []
  outputs := []
  memMap := []
  portReads := 0
  unassigned := .fault
  unassignedRuns := 0

/-- Flags in the vectors' order Cy Z S P, bit 3 down to bit 0. -/
def czsp (f : BitVec 4) : Flags :=
  { cy := f.getLsbD 3, z := f.getLsbD 2, s := f.getLsbD 1, p := f.getLsbD 0 }

/-- The state with a register content. -/
def has (r : Reg) (v : Byte) (s : State) : State := s.setReg r v

/-- The state with these flags before. -/
def flags (f : BitVec 4) (s : State) : State := s.setFlags (czsp f)

/-- The state with bytes at rising addresses. -/
def put : List Byte → Addr → State → State
  | [], _, s => s
  | b :: bs, a, s => put bs (a + 1) (s.place a b)

/-- The state with a program counter, an address stack pointer and the entry below it. -/
def stacked (pc : Addr) (stp : Nat) (top : Addr) (s : State) : State :=
  { s with pc := pc, stp := stp, stack := s.stack.set (stp - 1) top }

/-- One step over the bytes at `pc` completes and its result satisfies the check. -/
def after (bytes : List Byte) (s : State) (check : State → Bool) : Bool :=
  match step (put bytes s.pc s) with
  | .next t => check t
  | _ => false

/-- One step over the bytes at `pc` stops with this fault. -/
def stops (bytes : List Byte) (s : State) (f : Fault) : Bool :=
  match step (put bytes s.pc s) with
  | .fault g => g == f
  | _ => false

/-- The bytes decode to this instruction, with none left over. -/
def reads (bytes : List Byte) (i : Instr) : Bool :=
  match decode bytes with
  | .ok (j, rest) => j == i && rest.isEmpty
  | .error _ => false

/-- A state with three bytes at `pc` = 0. -/
def at3 (b0 b1 b2 : Byte) : State := put [b0, b1, b2] 0 start

/-- The decoder rejects the byte by name. -/
def rejects (b : Byte) : Bool :=
  match decode [b, 0, 0] with
  | .ok _ => false
  | .error e => e == .unassigned b

/-- The accumulator and the flags after. -/
def gives (a : Byte) (f : BitVec 4) (t : State) : Bool := t.regs.a == a && t.flags == czsp f

/-! ### Well-formedness: an ill-formed term for each check -/

/-- R110, R112: "r ≠ A". -/
theorem test_wellFormed_incA : ¬ (Instr.incR .a).WellFormed := by decide

/-- R111, R112. -/
theorem test_wellFormed_dcrA : ¬ (Instr.dcrR .a).WellFormed := by decide

/-- R202: "RR ≠ 00". -/
theorem test_wellFormed_out7 : ¬ (Instr.out 7).WellFormed ∧ (Instr.out 8).WellFormed := by decide

/-! ### Decoding: every constructor, from words written out -/

theorem test_decode_load :
    reads [0b11001011] (.movRR .b .d) ∧ reads [0b11000111] (.movRM .a) ∧ reads [0b00101110, 0x01] (.mviR .h 1) ∧
    reads [0b11111001] (.movMR .b) ∧ reads [0b00111110, 0xAA] (.mviM 0xAA) := by decide

theorem test_decode_incdec : reads [0b00110000] (.incR .l) ∧ reads [0b00001001] (.dcrR .b) := by decide

theorem test_decode_rotate :
    reads [0b00000010] .rlc ∧ reads [0b00001010] .rrc ∧ reads [0b00010010] .ral ∧ reads [0b00011010] .rar := by decide

theorem test_decode_add :
    reads [0b10000100] (.addR .e) ∧ reads [0b10000111] .addM ∧ reads [0b00000100, 0xC6] (.adi 0xC6) ∧
    reads [0b10001001] (.adcR .b) ∧ reads [0b10001111] .adcM ∧ reads [0b00001100, 0x00] (.aci 0) := by decide

theorem test_decode_sub :
    reads [0b10010100] (.subR .e) ∧ reads [0b10010111] .subM ∧ reads [0b00010100, 0x05] (.sui 5) ∧
    reads [0b10011001] (.sbbR .b) ∧ reads [0b10011111] .sbbM ∧ reads [0b00011100, 0x00] (.sbi 0) := by decide

theorem test_decode_logic :
    reads [0b10100001] (.anaR .b) ∧ reads [0b10100111] .anaM ∧ reads [0b00100100, 0xF0] (.ani 0xF0) ∧
    reads [0b10110010] (.oraR .c) ∧ reads [0b10110111] .oraM ∧ reads [0b00110100, 0x80] (.ori 0x80) ∧
    reads [0b10101011] (.xraR .d) ∧ reads [0b10101111] .xraM ∧ reads [0b00101100, 0xFF] (.xri 0xFF) := by decide

theorem test_decode_compare :
    reads [0b10111010] (.cmpR .c) ∧ reads [0b10111111] .cmpM ∧ reads [0b00111100, 0x0A] (.cpi 0x0A) := by decide

/-- The low address byte comes first; the X bits of the opcode and of the third byte are ignored (R50, R88). -/
theorem test_decode_jump :
    reads [0b01000100, 0x23, 0x01] (.jmp 0x0123) ∧ reads [0b01111100, 0x00, 0xC1] (.jmp 0x0100) ∧
    reads [0b01001000, 0x10, 0x00] (.jf .z 0x0010) ∧ reads [0b01101000, 0x66, 0x00] (.jt .z 102) := by decide

theorem test_decode_call_return :
    reads [0b01000110, 0x00, 0x02] (.call 0x0200) ∧ reads [0b01000010, 0x00, 0x01] (.cf .cy 0x0100) ∧
    reads [0b01101010, 0x00, 0x03] (.ct .z 0x0300) ∧ reads [0b00000111] .ret ∧ reads [0b00111111] .ret ∧
    reads [0b00001011] (.rf .z) ∧ reads [0b00100011] (.rt .cy) ∧ reads [0b00011101] (.rst 3) := by decide

/-- Each of the four flag addresses CC (R32), at both senses. -/
theorem test_decode_flags :
    reads [0x40, 0, 0] (.jf .cy 0) ∧ reads [0x50, 0, 0] (.jf .s 0) ∧ reads [0x58, 0, 0] (.jf .p 0) ∧
    reads [0x62, 0, 0] (.ct .cy 0) ∧ reads [0x72, 0, 0] (.ct .s 0) ∧ reads [0x7A, 0, 0] (.ct .p 0) ∧
    reads [0x13] (.rf .s) ∧ reads [0x3B] (.rt .p) := by decide

/-- 0xC0 is MOV A, A, listed as NOP (R213). -/
theorem test_decode_io_halt_nop :
    reads [0b01000111] (.inp 3) ∧ reads [0b01010001] (.out 8) ∧ reads [0b01111111] (.out 31) ∧
    reads [0b00000000] .hlt ∧ reads [0b00000001] .hlt ∧ reads [0b11111111] .hltFF ∧
    reads [0b11000000] (.movRR .a .a) ∧ encode .nop = [0b11000000] := by decide

/-- R85. -/
theorem test_decode_unassigned :
    rejects 0x22 ∧ rejects 0x2A ∧ rejects 0x32 ∧ rejects 0x3A ∧ rejects 0x38 ∧ rejects 0x39 := by decide

/-- The bytes the encoder writes, don't-care bits 0 (R88, R93: `JMP 0x0123` is 0x44 0x23 0x01). -/
theorem test_encode :
    encode (.jmp 0x0123) = [0x44, 0x23, 0x01] ∧ encode (.call 0x3FFF) = [0x46, 0xFF, 0x3F] ∧ encode .ret = [0x07] ∧
    encode (.rt .p) = [0x3B] ∧ encode (.inp 3) = [0x47] ∧ encode (.out 8) = [0x51] ∧ encode .hlt = [0x00] := by decide

/-- The table word of `JMP 0x0123`: byte 0 in bits 7:0, I1 in 15:8, I2 in 23:16; with 8 bits only, the operand bytes are 0. -/
theorem test_decodeTableWord :
    decodeTableWord 24 0x012344 = some (.jmp 0x0123) ∧ decodeTableWord 8 0x44 = some (.jmp 0) ∧
    decodeTableWord 8 0x22 = none := by decide

/-- `withFetchWord` places the word where the very next step fetches, also in a halted state and over a hole of the map. -/
theorem test_withFetchWord :
    (match step ((({ start with halted := true, memMap := [⟨0, 0x3FFF, .none⟩] } : State)).withFetchWord 16 0x5A06) with
      | .next t => t.regs.a == 0x5A && t.pc == 2
      | _ => false) = true := by decide

/-! ### One step of each instruction -/

/-- E1. -/
theorem test_mov : after [0xCB] (start |> has .b 0x12 |> has .d 0x34)
    (fun t => t.regs.b == 0x34 && t.regs.d == 0x34 && t.pc == 1) := by decide

/-- R101, D2: bits 7:6 of H take no part in the address. -/
theorem test_movRM_high : after [0xC7] (start |> has .h 0xC1 |> has .l 0x20 |> put [0x7F] 0x0120)
    (fun t => t.regs.a == 0x7F && t.regs.h == 0xC1) := by decide

/-- The address is formed before H is written. -/
theorem test_movRM_h : after [0xEF] (start |> has .h 0x02 |> has .l 0x10 |> put [0x3F] 0x0210)
    (fun t => t.regs.h == 0x3F && t.regs.l == 0x10) := by decide

/-- The immediate of an instruction at 0x3FFF is read at 0x0000 (R29). -/
theorem test_mvi_wrap : after [0x36, 0xAB] { start with pc := 0x3FFF }
    (fun t => t.regs.l == 0xAB && t.pc == 1) := by decide

theorem test_movMR : after [0xFD] (start |> has .h 0xFF |> has .l 0xFE)
    (fun t => t.byteAt 0x3FFE == 0xFF && t.pc == 1) := by decide

theorem test_mviM : after [0x3E, 0xAA] (start |> has .h 0x02)
    (fun t => t.byteAt 0x0200 == 0xAA && t.pc == 2) := by decide

theorem test_inc : after [0x08] (start |> has .b 0xFF |> flags 0b1000)
    (fun t => t.regs.b == 0 && t.flags == czsp 0b1101) := by decide

theorem test_dcr : after [0x31] (start |> has .l 0x00 |> flags 0b1000)
    (fun t => t.regs.l == 0xFF && t.flags == czsp 0b1011) := by decide

theorem test_rlc : after [0x02] (start |> has .a 0x81 |> flags 0b0111) (gives 0x03 0b1111) := by decide

theorem test_rrc : after [0x0A] (start |> has .a 0x01 |> flags 0b0000) (gives 0x80 0b1000) := by decide

theorem test_ral : after [0x12] (start |> has .a 0x55 |> flags 0b1000) (gives 0xAB 0b0000) := by decide

theorem test_rar : after [0x1A] (start |> has .a 0xAA |> flags 0b1000) (gives 0xD5 0b0000) := by decide

theorem test_add : after [0x81] (start |> has .a 0xFF |> has .b 0x01) (gives 0x00 0b1101) := by decide

theorem test_addM : after [0x87] (start |> has .a 0xF0 |> has .l 0x40 |> put [0x20] 0x0040)
    (fun t => gives 0x10 0b1000 t && t.byteAt 0x0040 == 0x20) := by decide

theorem test_adi : after [0x04, 0xC6] (start |> has .a 0x3A) (fun t => gives 0x00 0b1101 t && t.pc == 2) := by decide

theorem test_adc : after [0x89] (start |> has .a 0xFF |> has .b 0xFF |> flags 0b1000) (gives 0xFF 0b1011) := by decide

theorem test_adcM : after [0x8F] (start |> has .a 0x80 |> has .l 0x40 |> put [0x7F] 0x0040 |> flags 0b1000)
    (gives 0x00 0b1101) := by decide

theorem test_aci : after [0x0C, 0x00] (start |> has .a 0x10 |> flags 0b1000) (gives 0x11 0b0001) := by decide

theorem test_sub : after [0x91] (start |> has .a 0x00 |> has .b 0x01) (gives 0xFF 0b1011) := by decide

theorem test_subM : after [0x97] (start |> has .a 0x10 |> has .l 0x40 |> put [0x20] 0x0040) (gives 0xF0 0b1011) := by decide

theorem test_sui : after [0x14, 0x05] (start |> has .a 0x05) (gives 0x00 0b0101) := by decide

/-- 0x00 - 0xFF - 1: A and the borrow-in together make 256 (R144). -/
theorem test_sbb : after [0x99] (start |> has .b 0xFF |> flags 0b1000) (gives 0x00 0b1101) := by decide

theorem test_sbbM : after [0x9F] (start |> has .l 0x40 |> put [0x00] 0x0040 |> flags 0b1000) (gives 0xFF 0b1011) := by decide

theorem test_sbi : after [0x1C, 0x00] (start |> has .a 0x10 |> flags 0b1000) (gives 0x0F 0b0001) := by decide

theorem test_ana : after [0xA1] (start |> has .a 0xF0 |> has .b 0x3C |> flags 0b1000) (gives 0x30 0b0001) := by decide

theorem test_anaM : after [0xA7] (start |> has .a 0x0F |> has .h 0x01 |> put [0xF0] 0x0100) (gives 0x00 0b0101) := by decide

theorem test_ani : after [0x24, 0xF0] (start |> has .a 0xAB |> flags 0b1000) (gives 0xA0 0b0011) := by decide

theorem test_ora : after [0xB2] (start |> has .a 0x81 |> has .c 0x18) (gives 0x99 0b0011) := by decide

theorem test_oraM : after [0xB7] (start |> has .l 0x40 |> put [0x00] 0x0040) (gives 0x00 0b0101) := by decide

theorem test_ori : after [0x34, 0x80] (start |> has .a 0x05) (gives 0x85 0b0010) := by decide

theorem test_xra : after [0xAB] (start |> has .a 0xFF |> has .d 0x0F) (gives 0xF0 0b0011) := by decide

theorem test_xraM : after [0xAF] (start |> has .a 0x55 |> has .l 0x40 |> put [0xFF] 0x0040) (gives 0xAA 0b0011) := by decide

theorem test_xri : after [0x2C, 0xFF] (start |> has .a 0x0F) (gives 0xF0 0b0011) := by decide

theorem test_cmp : after [0xBA] (start |> has .a 0x2F |> has .c 0x30) (gives 0x2F 0b1011) := by decide

theorem test_cmpM : after [0xBF] (start |> has .a 0x41 |> has .l 0x10 |> put [0x41] 0x0010) (gives 0x41 0b0101) := by decide

theorem test_cpi : after [0x3C, 0x0A] (start |> has .a 0x09) (fun t => gives 0x09 0b1011 t && t.pc == 2) := by decide

theorem test_jmp : after [0x7C, 0x00, 0xC1] start (fun t => t.pc == 0x0100) := by decide

theorem test_jf : after [0x48, 0x34, 0x12] { start with pc := 0x0100 } (fun t => t.pc == 0x1234) ∧
    after [0x48, 0x34, 0x12] ({ start with pc := 0x0100 } |> flags 0b0100) (fun t => t.pc == 0x0103) := by decide

theorem test_jt : after [0x68, 0x66, 0x00] ({ start with pc := 0x0200 } |> flags 0b0100) (fun t => t.pc == 0x0066) ∧
    after [0x68, 0x66, 0x00] { start with pc := 0x0200 } (fun t => t.pc == 0x0203) := by decide

/-- The return address of a call at 0x3FFD wraps to 0x0000 (R180). -/
theorem test_call : after [0x46, 0x00, 0x02] (stacked 0x3FFD 0 0x3333 start)
    (fun t => t.pc == 0x0200 && t.stp == 1 && t.stack[0]? == some 0x0000) := by decide

theorem test_call_full : stops [0x46, 0x00, 0x02] (stacked 0x0010 7 0x0050 start) (.stackOverflow 0x0010) := by decide

theorem test_cf : after [0x42, 0x34, 0x12] (stacked 0x0100 1 0x0050 start)
      (fun t => t.pc == 0x1234 && t.stp == 2 && t.stack[1]? == some 0x0103) ∧
    after [0x42, 0x34, 0x12] (stacked 0x0100 7 0x0050 start |> flags 0b1000) (fun t => t.pc == 0x0103 && t.stp == 7) := by
  decide

theorem test_ct : after [0x7A, 0x34, 0x12] (stacked 0x0100 1 0x0050 start |> flags 0b0001)
      (fun t => t.pc == 0x1234 && t.stp == 2 && t.stack[1]? == some 0x0103) ∧
    after [0x7A, 0x34, 0x12] (stacked 0x0100 1 0x0050 start) (fun t => t.pc == 0x0103 && t.stp == 1) := by decide

theorem test_ret : after [0x3F] (stacked 0x0200 2 0x0099 start) (fun t => t.pc == 0x0099 && t.stp == 1) := by decide

theorem test_ret_empty : stops [0x07] (stacked 0x0200 0 0 start) (.stackUnderflow 0x0200) := by decide

theorem test_rf : after [0x0B] (stacked 0x0207 1 0x0050 start) (fun t => t.pc == 0x0050 && t.stp == 0) ∧
    after [0x0B] (stacked 0x0200 0 0 start |> flags 0b0100) (fun t => t.pc == 0x0201 && t.stp == 0) := by decide

theorem test_rt : after [0x23] (stacked 0x0100 2 0x0099 start |> flags 0b1000) (fun t => t.pc == 0x0099 && t.stp == 1) ∧
    after [0x23] (stacked 0x0100 1 0x0050 start) (fun t => t.pc == 0x0101 && t.stp == 1) := by decide

theorem test_rst : after [0x1D] { start with pc := 0x0123 }
      (fun t => t.pc == 0x0018 && t.stp == 1 && t.stack[0]? == some 0x0124) ∧
    after [0x3D] { start with pc := 0x0040 } (fun t => t.pc == 0x0038) := by decide

/-- R200, R201: A takes the byte the environment presents, whatever it is, and no flag is written. -/
theorem test_in : exec (.inp 3) (start |> flags 0b0100) =
    .next { (start |> flags 0b0100) with regs := start.regs.set .a (Config.portByte 0 3), pc := 1, portReads := 1 } := rfl

theorem test_out : after [0x51] (start |> has .a 0x3C)
    (fun t => t.outputs == [((8 : BitVec 5), (0x3C : Byte))] && t.pc == 1) := by decide

theorem test_hlt : after [0x00] { start with pc := 0x0040 } (fun t => t.pc == 0x0041 && t.halted) ∧
    after [0x01] start (fun t => t.halted) := by decide

theorem test_hltFF : after [0xFF] { start with pc := 0x3FFF } (fun t => t.pc == 0x0000 && t.halted) := by decide

theorem test_nop : after [0xC0] ({ start with pc := 0x0100 } |> has .a 0x7E |> flags 0b1111)
    (fun t => gives 0x7E 0b1111 t && t.pc == 0x0101) := by decide

theorem test_halted : stops [0xC0] { start with halted := true } .halted := by decide

theorem test_illegal : stops [0x38] start (.illegalOpcode 0x38 0) := by decide

/-- R85, D5: where the parameter is not `fault` the byte runs, its effect a free value, and does not halt the machine. -/
theorem test_illegal_free : step { at3 0x38 0 0 with unassigned := .free } =
    ({ at3 0x38 0 0 with unassigned := .free } : State).runUnassigned 0x38 := rfl

/-- A write to `rom` faults and a read of it does not (R56, R57). -/
theorem test_rom : stops [0xF9] ({ start with memMap := [⟨0x80, 0x80, .rom⟩] } |> has .l 0x80) (.unmappedAccess 0x80) ∧
    after [0xC7] ({ start with memMap := [⟨0x80, 0x80, .rom⟩] } |> has .l 0x80 |> put [0x11] 0x80)
      (fun t => t.regs.a == 0x11) := by decide

/-- R92: the condition names of both notations at CC = 10 and 11. -/
theorem test_mnemonics :
    nameA (.jf .s 0) = "JP" ∧ nameA (.ct .p 0) = "CPE" ∧ nameB (.jf .s 0) = some "JFS" ∧
    nameB (.movRR .b .d) = some "LBD" ∧ nameB (.cmpR .c) = some "CPC" := by decide

/-! ### Witnesses: the hypotheses of the obligations can be met -/

/-- The default state with one address of another kind. -/
def hole (a : Addr) (k : MemKind) (s : State) : State := { s with memMap := [{ first := a, last := a, kind := k }] }

/-- For every statement with a `Row`: a row of one, two and three bytes stands at `pc`, also across the end of memory. -/
theorem witness_Row :
    (at3 0x87 0 0).StandsAt [0x87] ∧ (put [0x36, 0xAB] 0x3FFF { start with pc := 0x3FFF }).StandsAt [0x36, 0xAB] ∧
    (at3 0x44 0x23 0x01).StandsAt [0x44, 0x23, 0x01] := by
  refine ⟨⟨rfl, fun k b h => ?_⟩, ⟨rfl, fun k b h => ?_⟩, ⟨rfl, fun k b h => ?_⟩⟩ <;>
    (match k with
      | 0 => cases h; decide
      | 1 => cases h <;> decide
      | 2 => cases h <;> decide
      | _ + 3 => cases h)

theorem witness_DecodeOfEncodeIsTheInstruction :
    (Instr.incR .b).WellFormed ∧ (Instr.dcrR .l).WellFormed ∧ (Instr.out 8).WellFormed ∧ Instr.nop.WellFormed := by decide

theorem witness_EncodeOfDecodeIsTheBytesButDontCares : decode [0x7C, 0x00, 0xC1] = .ok (.jmp 0x0100, []) := rfl

theorem witness_DecodedInstructionIsWellFormed : decode [0x51, 0x00] = .ok (.out 8, [0x00]) := rfl

theorem witness_OpcodeByteAloneDecidesTheLength :
    decode (0x44 :: [0x23, 0x01]) = .ok (.jmp 0x0123, []) ∧ decode (0x04 :: [0xC6, 0x01]) = .ok (.adi 0xC6, [0x01]) ∧
    decode (0xC0 :: [0x23, 0x01]) = .ok (.movRR .a .a, [0x23, 0x01]) := ⟨rfl, rfl, rfl⟩

theorem witness_DontCareBitsAreIgnoredAndWrittenZero :
    (0x78 : Byte).extractLsb' 6 2 = 1 ∧ (0x78 : Byte).getLsbD 0 = false ∧ encode (.jmp 0x3FFF) = [0x44, 0xFF, 0x3F] := by
  decide

/-- Readable and not, and `unassigned_opcode` at its default. -/
theorem witness_ExactlySixOpcodeBytesAreIllegal :
    (at3 0x22 0 0).halted = false ∧ (at3 0x22 0 0).readable (at3 0x22 0 0).pc = true ∧ (at3 0x22 0 0).unassigned = .fault ∧
    (at3 0x22 0 0).byteAt (at3 0x22 0 0).pc ∈ ([0x22, 0x2A, 0x32, 0x3A, 0x38, 0x39] : List Byte) ∧
    (hole 0 .none (at3 0x39 0 0)).halted = false ∧
    (hole 0 .none (at3 0x39 0 0)).byteAt 0 ∈ ([0x22, 0x2A, 0x32, 0x3A, 0x38, 0x39] : List Byte) ∧
    (hole 0 .none (at3 0x39 0 0)).readable (hole 0 .none (at3 0x39 0 0)).pc = false := by decide

/-- The default map allows every write the byte could make, so the completing clause has its hypotheses met; where all memory is
`rom` no write is allowed, so there the free value alone decides whether the byte faults. -/
theorem witness_UnassignedByteHasAFreeEffectIfTheParameterSaysSo :
    let s : State := { at3 0x38 0 0 with unassigned := .free }
    s.halted = false ∧ s.readable s.pc = true ∧ s.byteAt s.pc ∈ ([0x22, 0x2A, 0x32, 0x3A, 0x38, 0x39] : List Byte) ∧
    s.unassigned = .free ∧
    (∀ a v, Config.unassignedStore s.unassignedRuns (s.byteAt s.pc) = some (a, v) → s.writable a = true) ∧
    ({ s with memMap := [⟨0, 0x3FFF, .rom⟩] } : State).readable s.pc = true ∧
    ({ s with memMap := [⟨0, 0x3FFF, .rom⟩] } : State).writable 0x3FFF = false :=
  ⟨rfl, by decide, by decide, rfl, fun _ _ _ => rfl, by decide, by decide⟩

theorem witness_NotationBIsThreeLetters : Instr.hlt ≠ .nop := by decide

theorem witness_NotationANamesAndOperands : (0 : Byte).toNat < 64 ∧ (0x3F : Byte).toNat < 64 := by decide

theorem witness_StepRunsTheDecodedInstruction :
    (at3 0x44 0x23 0x01).halted = false ∧ decode (at3 0x44 0x23 0x01).window = .ok (.jmp 0x0123, []) ∧
    ∀ k, k < (Instr.jmp 0x0123).length → (at3 0x44 0x23 0x01).readable ((at3 0x44 0x23 0x01).pc + BitVec.ofNat 14 k) = true :=
  ⟨rfl, rfl, by decide⟩

theorem witness_HaltedMachineHasNoStep : ({ start with halted := true } : State).halted = true := rfl

/-- Both arms: nothing denied; the opcode byte, each operand byte, the data read and the data write denied. -/
theorem witness_StepFaultsAtTheFirstForbiddenAccess :
    (at3 0x44 0x23 0x01).halted = false ∧ decode (at3 0x44 0x23 0x01).window = .ok (.jmp 0x0123, []) ∧
    (accesses (.jmp 0x0123) (at3 0x44 0x23 0x01)).findSome? (deniedAt (at3 0x44 0x23 0x01)) = none ∧
    (∀ a : Addr, a = 0 ∨ a = 1 ∨ a = 2 →
      decode (hole a .none (at3 0x44 0x23 0x01)).window = .ok (.jmp 0x0123, []) ∧
      (accesses (.jmp 0x0123) (hole a .none (at3 0x44 0x23 0x01))).findSome?
        (deniedAt (hole a .none (at3 0x44 0x23 0x01))) = some a) ∧
    decode (at3 0xC7 0 0).window = .ok (.movRM .a, [0, 0]) ∧
    (accesses (.movRM .a) (hole 0x80 .none (at3 0xC7 0 0) |> has .l 0x80)).findSome?
      (deniedAt (hole 0x80 .none (at3 0xC7 0 0) |> has .l 0x80)) = some 0x80 ∧
    (accesses (.movMR .a) (hole 0x80 .rom (at3 0xF8 0 0) |> has .l 0x80)).findSome?
      (deniedAt (hole 0x80 .rom (at3 0xF8 0 0) |> has .l 0x80)) = some 0x80 := by
  refine ⟨rfl, rfl, by decide, ?_, rfl, by decide, by decide⟩
  rintro a (rfl | rfl | rfl) <;> exact ⟨rfl, by decide⟩

/-- The first clause: an unassigned byte at an address the map gives no memory. -/
theorem witness_StepFaults_unreadable_opcode :
    (hole 0 .none (at3 0x22 0 0)).halted = false ∧
    (hole 0 .none (at3 0x22 0 0)).readable (hole 0 .none (at3 0x22 0 0)).pc = false ∧
    stops [] (hole 0 .none (at3 0x22 0 0)) (.unmappedAccess 0) := by decide

theorem witness_StepCompletesExactlyWhen :
    (stacked 0 0 0 start).stp ≤ (stacked 0 0 0 start).stack.length ∧
    (stacked 0 7 0 start).stp ≤ (stacked 0 7 0 start).stack.length ∧
    (∃ t, step (at3 0x46 0 0) = .next t) ∧ (∃ t, step (at3 0x1D 0 0 |> stacked 0 6 0) = .next t) := by
  exact ⟨by decide, by decide, ⟨_, rfl⟩, ⟨_, rfl⟩⟩

/-- For every statement with a readable or a writable M: the default map allows both, at both ends of memory. -/
theorem witness_LoadFromMemoryReadsTheByteAtHL :
    start.readable start.maddr = true ∧
    (start |> has .h 0xFF |> has .l 0xFF).readable (start |> has .h 0xFF |> has .l 0xFF).maddr = true := by decide

theorem witness_StoresWriteOneByteAtTheAddressInHL :
    start.writable start.maddr = true ∧
    (start |> has .h 0xFF |> has .l 0xFF).writable (start |> has .h 0xFF |> has .l 0xFF).maddr = true := by decide

theorem witness_AddressOfMIsLowSixBitsOfHAboveL :
    (0xC1 : Byte).toNat % 64 = ((start |> has .h 0x01).reg .h).toNat % 64 := by decide

theorem witness_ForbiddenMemoryOperandFaults :
    (hole 0 .none start).readable (hole 0 .none start).maddr = false ∧
    Instr.cmpM ∈ [Instr.movRM .a, .addM, .adcM, .subM, .sbbM, .anaM, .oraM, .xraM, .cmpM] ∧
    (hole 0 .none start).writable (hole 0 .none start).maddr = false ∧
    (hole 0 .rom start).writable (hole 0 .rom start).maddr = false ∧
    Instr.mviM 5 ∈ [Instr.movMR .a, .mviM 5] := by decide

theorem witness_IncrementAndDecrementKeepCarry : Reg.b ≠ .a ∧ Reg.l ≠ .a := by decide

theorem witness_AdditionWritesSumAndAllFlags : start.readable start.maddr = true := by decide

theorem witness_SubtractionWritesDifferenceAndBorrow : start.readable start.maddr = true := by decide

theorem witness_LogicCombinesBitsAndClearsCarry : start.readable start.maddr = true := by decide

theorem witness_CompareWritesFlagsAndKeepsTheAccumulator : start.readable start.maddr = true := by decide

/-- Each of the three forms completes; less, equal and greater all occur. -/
theorem witness_CompareOutcomeTable :
    (∃ t, exec (.cmpR .b) (start |> has .b 1) = .next t ∧ t.flag .cy = true) ∧
    (∃ t, exec .cmpM (at3 0 0 0) = .next t ∧ t.flag .z = true) ∧
    (∃ t, exec (.cpi 0x08) (start |> has .a 0x09) = .next t ∧ t.flag .cy = false ∧ t.flag .z = false) :=
  ⟨⟨_, rfl, rfl⟩, ⟨_, rfl, rfl⟩, ⟨_, rfl, rfl, rfl⟩⟩

/-- With and without a signed overflow. -/
theorem witness_AdditionLaw :
    (∃ t, exec (.adi 0x01) (start |> has .a 0x7F) = .next t ∧ t.reg .a = 0x80) ∧
    (∃ t, exec (.aci 0xFF) (start |> has .a 0xFF |> flags 0b1000) = .next t ∧ t.reg .a = 0xFF) :=
  ⟨⟨_, rfl, rfl⟩, ⟨_, rfl, rfl⟩⟩

theorem witness_SubtractionLaw :
    (∃ t, exec (.sui 0x01) start = .next t ∧ t.reg .a = 0xFF) ∧
    (∃ t, exec (.sbi 0xFF) (start |> flags 0b1000) = .next t ∧ t.reg .a = 0x00) := ⟨⟨_, rfl, rfl⟩, ⟨_, rfl, rfl⟩⟩

theorem witness_ClearingTheAccumulatorFromAnyState :
    (Instr.xraR .a = .xraR .a ∨ Instr.xraR .a = .subR .a) ∧ (Instr.subR .a = .xraR .a ∨ Instr.subR .a = .subR .a) := by
  decide

/-- Room at both ends of the range, and none; the flag at both values. -/
theorem witness_CallsPushTheReturnAddress :
    (stacked 0 0 0 start).stp < (stacked 0 0 0 start).stack.length ∧
    (stacked 0 6 0 start).stp < (stacked 0 6 0 start).stack.length ∧
    (stacked 0 7 0 start).stp = (stacked 0 7 0 start).stack.length ∧
    start.flag .p = false ∧ (flags 0b0001 start).flag .p = true := by decide

/-- One address held, all of them, none; the flag at both values. -/
theorem witness_ReturnsPopTheReturnAddress :
    0 < (stacked 0 1 0 start).stp ∧ (stacked 0 1 0 start).stp ≤ (stacked 0 1 0 start).stack.length ∧
    0 < (stacked 0 7 0 start).stp ∧ (stacked 0 7 0 start).stp ≤ (stacked 0 7 0 start).stack.length ∧
    (stacked 0 0 0 start).stp = 0 ∧ start.flag .p = false ∧ (flags 0b0001 start).flag .p = true := by decide

theorem witness_RestartPushesAndGoesToEightTimesN :
    (stacked 0 6 0 start).stp < (stacked 0 6 0 start).stack.length ∧
    (stacked 0 7 0 start).stp = (stacked 0 7 0 start).stack.length := by decide

/-- A call, a taken conditional call at each sense, and a restart, each completing. -/
theorem witness_ReturnUndoesACall :
    (pushes (.ct .p 0x1234) (flags 0b0001 start) = true ∧
      ∃ t u : State, exec (.ct .p 0x1234) (flags 0b0001 start) = .next t ∧ u.stack = t.stack ∧ u.stp = t.stp ∧ u.pc = 0x0777) ∧
    (pushes (.cf .cy 0x1234) start = true ∧ ∃ t, exec (.cf .cy 0x1234) start = .next t) ∧
    (pushes (.call 0x0200) start = true ∧ ∃ t, exec (.call 0x0200) start = .next t) ∧
    (pushes (.rst 3) (stacked 0x0123 6 0 start) = true ∧ ∃ t, exec (.rst 3) (stacked 0x0123 6 0 start) = .next t) :=
  ⟨⟨by decide, _, { start with pc := 0x0777, stp := 1, stack := [3, 0, 0, 0, 0, 0, 0] }, rfl, rfl, rfl, rfl⟩,
    ⟨by decide, _, rfl⟩, ⟨by decide, _, rfl⟩, ⟨by decide, _, rfl⟩⟩

theorem witness_OutputAppendsOneEvent : 8 ≤ (8 : BitVec 5).toNat ∧ 8 ≤ (31 : BitVec 5).toNat := by decide

theorem witness_HaltStopsTheMachine : (∃ t, exec .hlt start = .next t) ∧ ∃ t, exec .hltFF start = .next t :=
  ⟨⟨_, rfl⟩, ⟨_, rfl⟩⟩

theorem witness_StepKeepsTheInvariant : (at3 0x51 0 0).Inv ∧ ∃ t, step (at3 0x51 0 0) = .next t ∧ t.outputs.length = 1 :=
  ⟨⟨by decide, by decide, fun _ he => by cases he⟩, _, rfl, rfl⟩

/-- A draw other than `State.reset`: a program image, and a register that is not 0. -/
theorem witness_EveryRunFromResetKeepsTheInvariant :
    (has .b 0x3A (at3 0xC1 0 0)).ResetDraw ∧ ∃ t, Reaches 2 (has .b 0x3A (at3 0xC1 0 0)) t ∧ t.regs.a = 0x3A ∧ t.Final :=
  ⟨⟨rfl, rfl, rfl, rfl, by decide⟩, _, ⟨_, rfl, _, rfl, rfl⟩, rfl, rfl⟩

theorem witness_StepKeepsTheParameters : ∃ t, step (hole 0x80 .rom (at3 0x46 0 2)) = .next t ∧ t.pc = 0x0200 := ⟨_, rfl, rfl⟩

theorem witness_ReadOnlyMemoryNeverChanges :
    (hole 0x80 .rom (at3 0xF8 0xC0 0)).writable 0x80 = false ∧ ∃ t, Reaches 2 (hole 0x80 .rom (at3 0xF8 0xC0 0)) t :=
  ⟨by decide, _, ⟨_, rfl, _, rfl, rfl⟩⟩

theorem witness_OutputHistoryOnlyGrows : ∃ t, Reaches 2 (at3 0x51 0x7F 0) t ∧ t.outputs = [(8, 0), (31, 0)] :=
  ⟨_, ⟨_, rfl, _, rfl, rfl⟩, rfl⟩

theorem witness_OnlyHaltBytesHalt :
    (∃ t, step (at3 0x01 0 0) = .next t ∧ t.halted = true) ∧ ∃ t, step (at3 0xC0 0 0) = .next t ∧ t.halted = false :=
  ⟨⟨_, rfl, rfl⟩, ⟨_, rfl, rfl⟩⟩

theorem witness_RegistersWrittenAsTabled :
    (∃ t, exec (.movRR .b .d) start = .next t) ∧ regWritten (.movRR .b .d) ≠ some .d ∧
    (∃ t, exec (.cmpR .b) start = .next t) ∧ regWritten (.cmpR .b) ≠ some .a := ⟨⟨_, rfl⟩, by decide, ⟨_, rfl⟩, by decide⟩

theorem witness_FlagsWrittenAsTabled :
    (∃ t, exec (.incR .b) start = .next t) ∧ Flag.cy ∉ flagsWritten (.incR .b) := ⟨⟨_, rfl⟩, by decide⟩

/-- The two flag records differ in every flag that is not read. -/
theorem witness_FlagsReadAsTabled :
    (∀ c ∈ flagsRead .ral, (czsp 0b1000).get c = (flags 0b1111 start).flags.get c) ∧
    (∃ t, exec .ral (flags 0b1111 start) = .next t) ∧
    (∀ c ∈ flagsRead .ret, (czsp 0b1010).get c = (flags 0b0101 start).flags.get c) ∧
    exec .ret (flags 0b0101 start) = .fault (.stackUnderflow 0) := ⟨by decide, ⟨_, rfl⟩, by decide, rfl⟩

theorem witness_OnlyCallsAndReturnsTouchTheStack :
    (∃ t, exec (.call 0x0200) start = .next t) ∧ mayPush (.call 0x0200) = true ∧
    (∃ t, exec .ret (stacked 0 7 5 start) = .next t) ∧ mayPop .ret = true ∧ mayPush .ret = false ∧
    (∃ t, exec .nop start = .next t) ∧ mayPush .nop = false ∧ mayPop .nop = false :=
  ⟨⟨_, rfl⟩, rfl, ⟨_, rfl⟩, rfl, rfl, ⟨_, rfl⟩, rfl, rfl⟩

theorem witness_OnlyStoresChangeMemory :
    (∃ t, exec (.mviM 5) start = .next t) ∧ storesToM (.mviM 5) = true ∧ (1 : Addr) ≠ start.maddr ∧
    (∃ t, exec (.call 0x0200) start = .next t) ∧ storesToM (.call 0x0200) = false :=
  ⟨⟨_, rfl⟩, rfl, by decide, ⟨_, rfl⟩, rfl⟩

/-- At the end of memory, where `pc` wraps. -/
theorem witness_SequentialInstructionsAdvanceByTheirLength :
    (∃ t, exec (.mviR .l 0xAB) { start with pc := 0x3FFF } = .next t ∧ t.pc = 1) ∧
    transfersControl (.mviR .l 0xAB) = false := ⟨⟨_, rfl, rfl⟩, rfl⟩

/-- All hypotheses of the statement on a store and the next fetch. -/
def storeMet (s : State) (store i : Instr) (v : Byte) (len : Nat) (rest rest' : List Byte) : Prop :=
  ((∃ r, store = .movMR r ∧ v = s.reg r ∧ len = 1) ∨ (store = .mviM v ∧ len = 2)) ∧
  s.halted = false ∧ decode s.window = .ok (store, rest) ∧
  (∀ k, k < len → s.readable (s.pc + BitVec.ofNat 14 k) = true) ∧ s.writable s.maddr = true ∧
  let behind := fun k : Nat => s.pc + BitVec.ofNat 14 (len + k)
  let seen := fun k : Nat => if behind k = s.maddr then v else s.byteAt (behind k)
  decode [seen 0, seen 1, seen 2] = .ok (i, rest') ∧ ∀ k, k < i.length → s.readable (behind k) = true

/-- The store hits the opcode byte right behind MOV M, A (MOV A, A is stored), the opcode byte right behind MVI M, I, I2 of the
JMP behind MVI M, I, and, as in program P6, the operand byte of the MVI B, I behind MVI M, I. -/
theorem witness_StoreIsSeenByTheNextFetch :
    storeMet (at3 0xF8 0x00 0x00 |> has .a 0xC0 |> has .l 0x01) (.movMR .a) (.movRR .a .a) 0xC0 1 [0, 0]
      [0, Config.launchByte 3] ∧
    storeMet (at3 0x3E 0xFF 0x00 |> has .l 0x02) (.mviM 0xFF) .hltFF 0xFF 2 [0] [Config.launchByte 3, Config.launchByte 4] ∧
    storeMet (put [0x3E, 0x12, 0x44, 0x34, 0x00] 0 start |> has .l 0x04) (.mviM 0x12) (.jmp 0x1234) 0x12 2 [0x44] [] ∧
    storeMet (put [0x3E, 0x77, 0x0E, 0x00, 0x00] 0x0004 { start with pc := 0x0004 } |> has .l 0x07) (.mviM 0x77) (.mviR .b 0x77)
      0x77 2 [0x0E] [0] :=
  ⟨⟨.inl ⟨.a, rfl, rfl, rfl⟩, rfl, rfl, by decide, by decide, rfl, by decide⟩,
    ⟨.inr ⟨rfl, rfl⟩, rfl, rfl, by decide, by decide, rfl, by decide⟩,
    ⟨.inr ⟨rfl, rfl⟩, rfl, rfl, by decide, by decide, rfl, by decide⟩,
    ⟨.inr ⟨rfl, rfl⟩, rfl, rfl, by decide, by decide, rfl, by decide⟩⟩

theorem witness_StoreThenLoadGivesTheByteStored : start.writable start.maddr = true := by decide

theorem witness_CanonicalMemoriesAreDeterminedByTheirBytes :
    Memory.wf [(0, 1), (16383, 2)] = true ∧ Memory.wf (Memory.write (Memory.write [] 16383 2) 0 1) = true ∧
    ∀ a, Memory.read [(0, 1), (16383, 2)] a = Memory.read (Memory.write (Memory.write [] 16383 2) 0 1) a :=
  ⟨by decide, by decide, fun _ => rfl⟩

end Sys2Proof.Tests
end

section
/-! PROOFS. What the machine does in one step as a whole (00_scope R6, R10, R16): which fetches succeed, the few shapes the meaning
of an instruction can take, and when a step completes. -/

namespace Sys2Proof.Machine

/-! ### The fetch, in the words of the decoder -/

/-- The map lets the machine read the `n` bytes from `pc` on, modulo 2^14 (R51, R56). -/
def State.BytesReadable (s : State) (n : Nat) : Prop := ∀ k, k < n → s.readable (s.pc + BitVec.ofNat 14 k) = true

/-- The first byte, and the `n` bytes behind it. -/
theorem State.bytesReadable_succ (s : State) (n : Nat) :
    s.BytesReadable (n + 1) ↔
      s.readable s.pc = true ∧ ∀ k, k < n → s.readable (s.pc + BitVec.ofNat 14 (k + 1)) = true := by
  rw [State.BytesReadable, Nat.forall_lt_succ_left, BitVec.add_zero]

@[simp] theorem State.bytesReadable_one (s : State) : s.BytesReadable 1 ↔ s.readable s.pc = true := by
  simp [s.bytesReadable_succ 0]

@[simp] theorem State.bytesReadable_two (s : State) :
    s.BytesReadable 2 ↔ s.readable s.pc = true ∧ s.readable (s.pc + 1) = true := by
  simp [s.bytesReadable_succ 1]

@[simp] theorem State.bytesReadable_three (s : State) :
    s.BytesReadable 3 ↔ s.readable s.pc = true ∧ s.readable (s.pc + 1) = true ∧ s.readable (s.pc + 2) = true := by
  rw [s.bytesReadable_succ 2, Nat.forall_lt_succ_left]
  simp

/-- Format F1 is one byte long (R70). -/
theorem length_of_decodeHead_f1 {b : Byte} {i : Instr} (h : decodeHead b = some (.f1 i)) : i.length = 1 := by
  have spec := decodeHead_spec b
  rw [HeadSpec, h] at spec
  obtain ⟨-, -, -, -, enc⟩ := spec
  simp [Instr.length, enc, clearDontCares]

/-- Format F2 is two bytes long (R70). -/
theorem length_of_decodeHead_f2 {b : Byte} {build : Byte → Instr} (h : decodeHead b = some (.f2 build)) (v : Byte) :
    (build v).length = 2 := by
  have spec := decodeHead_spec b
  rw [HeadSpec, h] at spec
  obtain ⟨-, -, built⟩ := spec
  obtain ⟨-, -, enc, -⟩ := built v
  simp [Instr.length, enc]

/-- Format F3 is three bytes long (R70). -/
theorem length_of_decodeHead_f3 {b : Byte} {build : Addr → Instr} (h : decodeHead b = some (.f3 build)) (t : Addr) :
    (build t).length = 3 := by
  have spec := decodeHead_spec b
  rw [HeadSpec, h] at spec
  obtain ⟨-, -, c, -, built⟩ := spec
  obtain ⟨-, -, enc⟩ := built t
  simp [Instr.length, enc, addrBytes]

/-- The opcode map has no entry exactly for the six bytes of R85. -/
theorem decodeHead_eq_none_iff (b : Byte) :
    decodeHead b = none ↔ b ∈ ([0x22, 0x2A, 0x32, 0x3A, 0x38, 0x39] : List Byte) := by
  have spec := decodeHead_spec b
  rw [HeadSpec] at spec
  cases h : decodeHead b with
  | none =>
    rw [h] at spec
    exact iff_of_true rfl spec
  | some head =>
    rw [h] at spec
    refine iff_of_false nofun ?_
    cases head <;> exact spec.2.1

/-- Three bytes are never too few, so the decoder rejects them for their opcode byte only (R80, R85). -/
theorem decode_window_eq_unassigned_iff (s : State) :
    decode s.window = .error (.unassigned (s.byteAt s.pc)) ↔ decodeHead (s.byteAt s.pc) = none := by
  simp only [State.window, decode]
  cases decodeHead (s.byteAt s.pc) with
  | none => simp
  | some head => cases head <;> simp

/-- A running machine whose bytes at `pc` are the instruction `i` fetches it exactly if the map lets it read them (R10, R53, R56). -/
theorem fetch_of_decode_window (s : State) (i : Instr) (rest : List Byte) (running : s.halted = false)
    (dec : decode s.window = .ok (i, rest)) :
    s.fetch = .ok i ↔ s.BytesReadable i.length := by
  cases hr : s.readable s.pc with
  | false =>
    have pos : 0 < i.length := by cases i <;> exact Nat.succ_pos _
    rw [fetch_unreadable s running hr]
    exact iff_of_false nofun fun all => by simpa [hr] using all 0 pos
  | true =>
    rw [fetch_readable s running hr]
    simp only [State.window, decode] at dec
    cases hd : decodeHead (s.byteAt s.pc) with
    | none => simp [hd] at dec
    | some head =>
      cases head with
      | f1 j =>
        simp only [hd, Except.ok.injEq, Prod.mk.injEq] at dec
        obtain ⟨rfl, -⟩ := dec
        simp [length_of_decodeHead_f1 hd, State.fetchOperands, hr]
      | f2 build =>
        simp only [hd, Except.ok.injEq, Prod.mk.injEq] at dec
        obtain ⟨rfl, -⟩ := dec
        simp [length_of_decodeHead_f2 hd, fetchOperands_f2, hr]
      | f3 build =>
        simp only [hd, Except.ok.injEq, Prod.mk.injEq] at dec
        obtain ⟨rfl, -⟩ := dec
        simp only [length_of_decodeHead_f3 hd, fetchOperands_f3, State.bytesReadable_three, hr]
        cases s.readable (s.pc + 1) <;> simp

/-- Which instruction a fetch answers: the one the running machine finds, readable in all its bytes, at `pc` (R10, R51, R53). -/
theorem fetch_eq_ok_iff (s : State) (i : Instr) :
    s.fetch = .ok i ↔ s.halted = false ∧ (∃ rest, decode s.window = .ok (i, rest)) ∧ s.BytesReadable i.length := by
  constructor
  · intro fetched
    obtain ⟨running, rest, dec⟩ := decode_window_of_fetch s i fetched
    exact ⟨running, ⟨rest, dec⟩, (fetch_of_decode_window s i rest running dec).mp fetched⟩
  · rintro ⟨running, ⟨rest, dec⟩, readable⟩
    exact (fetch_of_decode_window s i rest running dec).mpr readable

/-- A fetch meets an unassigned byte exactly if the running machine can read one at `pc` (R85, R227). -/
theorem fetch_eq_illegal_iff (s : State) (b : Byte) (p : Addr) :
    s.fetch = .error (.illegalOpcode b p) ↔ s.halted = false ∧ s.readable s.pc = true ∧ b = s.byteAt s.pc ∧ p = s.pc ∧
      decodeHead (s.byteAt s.pc) = none := by
  refine ⟨fetch_illegal s b p, ?_⟩
  rintro ⟨running, readable, rfl, rfl, unassigned⟩
  rw [fetch_readable s running readable, unassigned]

/-! ### The shapes of a meaning -/

/-- The instruction has the memory operand M as a source (R33, R53). -/
def readsM : Instr → Bool
  | .movRM _ | .addM | .adcM | .subM | .sbbM | .anaM | .oraM | .xraM | .cmpM => true
  | _ => false

/-- `t` differs from `s` in registers, flags and ports at most: in nothing that decides where control goes, in no memory cell and
in no parameter. -/
def DataOnly (s t : State) : Prop :=
  ∃ regs flags outputs portReads,
    t = { s with regs := regs, flags := flags, outputs := outputs, portReads := portReads }

/-- What `i` asks of the machine in `s`, beyond its own bytes: a readable M, a writable M, a free stack entry, a held one. -/
structure Asks (i : Instr) (s : State) (readM writeM push pop : Bool) : Prop where
  readM : readsM i = readM
  writeM : storesToM i = writeM
  push : pushes i s = push
  pop : pops i s = pop

/-- The seven shapes of what the meaning of `i` answers in `s`, each with what it asks of the machine. -/
inductive ExecShape (i : Instr) (s : State) : Result → Prop
  /-- Registers, flags and ports change, and `pc` moves past the instruction. -/
  | sequential (u : State) (data : DataOnly s u) (asks : Asks i s false false false false) :
      ExecShape i s (.next (u.advance i.length))
  /-- As `sequential`, with the byte M as an operand (R33, R56). -/
  | load (f : Byte → State) (data : ∀ v, DataOnly s (f v)) (asks : Asks i s true false false false) :
      ExecShape i s (s.withM fun v => .next ((f v).advance i.length))
  /-- A byte is stored to M, and `pc` moves past the instruction (R57). -/
  | store (v : Byte) (asks : Asks i s false true false false) : ExecShape i s (s.storeM v fun u => .next (u.advance i.length))
  /-- A jump taken, or a conditional transfer not taken: only `pc` changes (R175 to R177). -/
  | goTo (target : Addr) (asks : Asks i s false false false false) (transfers : transfersControl i = true) :
      ExecShape i s (.next (s.setPc target))
  /-- A call or restart (R180, R190). -/
  | call (target : Addr) (asks : Asks i s false false true false) (transfers : transfersControl i = true) :
      ExecShape i s (s.callTo i.length target)
  /-- A return (R185). -/
  | ret (asks : Asks i s false false false true) (transfers : transfersControl i = true) : ExecShape i s s.returnFrom
  /-- HLT (R210). -/
  | halt (asks : Asks i s false false false false) (transfers : transfersControl i = true) : ExecShape i s (.next s.halt)

/-- The meaning of every instruction has one of the seven shapes: the case analysis over the instruction set, made once. -/
theorem exec_shape (i : Instr) (s : State) : ExecShape i s (exec i s) := by
  cases i with
  | movRR _ _ | mviR _ _ | incR _ | dcrR _ | rlc | rrc | ral | rar
  | addR _ | adi _ | adcR _ | aci _ | subR _ | sui _ | sbbR _ | sbi _
  | anaR _ | ani _ | oraR _ | ori _ | xraR _ | xri _ | cmpR _ | cpi _
  | inp _ | out _ | nop => exact .sequential _ ⟨_, _, _, _, rfl⟩ ⟨rfl, rfl, rfl, rfl⟩
  | movRM _ | addM | adcM | subM | sbbM | anaM | oraM | xraM | cmpM =>
    exact .load _ (fun _ => ⟨_, _, _, _, rfl⟩) ⟨rfl, rfl, rfl, rfl⟩
  | movMR _ | mviM _ => exact .store _ ⟨rfl, rfl, rfl, rfl⟩
  | jmp t => exact .goTo t ⟨rfl, rfl, rfl, rfl⟩ rfl
  | jf c t =>
    simp only [exec, execJf]
    split <;> exact .goTo _ ⟨rfl, rfl, rfl, rfl⟩ rfl
  | jt c t =>
    simp only [exec, execJt]
    split <;> exact .goTo _ ⟨rfl, rfl, rfl, rfl⟩ rfl
  | call t => exact .call t ⟨rfl, rfl, rfl, rfl⟩ rfl
  | cf c t =>
    simp only [exec, execCf]
    split
    next taken => exact .call t ⟨rfl, rfl, taken, rfl⟩ rfl
    next notTaken => exact .goTo _ ⟨rfl, rfl, eq_false_of_ne_true notTaken, rfl⟩ rfl
  | ct c t =>
    simp only [exec, execCt]
    split
    next taken => exact .call t ⟨rfl, rfl, taken, rfl⟩ rfl
    next notTaken => exact .goTo _ ⟨rfl, rfl, eq_false_of_ne_true notTaken, rfl⟩ rfl
  | ret => exact .ret ⟨rfl, rfl, rfl, rfl⟩ rfl
  | rf c =>
    simp only [exec, execRf]
    split
    next taken => exact .ret ⟨rfl, rfl, rfl, taken⟩ rfl
    next notTaken => exact .goTo _ ⟨rfl, rfl, rfl, eq_false_of_ne_true notTaken⟩ rfl
  | rt c =>
    simp only [exec, execRt]
    split
    next taken => exact .ret ⟨rfl, rfl, rfl, taken⟩ rfl
    next notTaken => exact .goTo _ ⟨rfl, rfl, rfl, eq_false_of_ne_true notTaken⟩ rfl
  | rst n => exact .call _ ⟨rfl, rfl, rfl, rfl⟩ rfl
  | hlt | hltFF => exact .halt ⟨rfl, rfl, rfl, rfl⟩ rfl

/-- What the state after a completed instruction can be: moved on with data changed, moved on with a byte stored at M, or the state
after a transfer of control, which is a jump, a push, a pop or the halt. -/
theorem exec_next_cases (i : Instr) (s t : State) (h : exec i s = .next t) :
    (∃ u, DataOnly s u ∧ t = u.advance i.length) ∨
      (∃ v, s.writable s.maddr = true ∧ t = (s.poke s.maddr v).advance i.length) ∨
      transfersControl i = true ∧
        ((∃ target, t = s.setPc target) ∨
          (∃ target, s.stp < s.stack.length ∧
            t = { s with stack := s.stack.set s.stp (s.pc + BitVec.ofNat 14 i.length), stp := s.stp + 1, pc := target }) ∨
          (∃ v, 0 < s.stp ∧ s.stack[s.stp - 1]? = some v ∧ t = { s with stp := s.stp - 1, pc := v }) ∨
          t = s.halt) := by
  have shape := exec_shape i s
  rw [h] at shape
  generalize answered : Host.Outcome.next t = r at shape
  cases shape with
  | sequential u data =>
    cases answered
    exact .inl ⟨u, data, rfl⟩
  | load f data =>
    obtain ⟨-, e⟩ := s.withM_next _ t answered.symm
    cases e
    exact .inl ⟨_, data _, rfl⟩
  | store v =>
    obtain ⟨writable, e⟩ := s.storeM_next v _ t answered.symm
    cases e
    exact .inr (.inl ⟨v, writable, rfl⟩)
  | goTo target _ transfers =>
    cases answered
    exact .inr (.inr ⟨transfers, .inl ⟨target, rfl⟩⟩)
  | call target _ transfers =>
    exact .inr (.inr ⟨transfers, .inr (.inl ⟨target, s.callTo_next _ target t answered.symm⟩)⟩)
  | ret _ transfers => exact .inr (.inr ⟨transfers, .inr (.inr (.inl (s.returnFrom_next t answered.symm)))⟩)
  | halt _ transfers =>
    cases answered
    exact .inr (.inr ⟨transfers, .inr (.inr (.inr rfl))⟩)

/-! ### What every completed step keeps -/

/-- `t` has the three parameters of `s` that the model carries in the state (R6, R37, R60, R85). -/
def SameParameters (s t : State) : Prop :=
  t.memMap = s.memMap ∧ t.stack.length = s.stack.length ∧ t.unassigned = s.unassigned

theorem exec_keeps_parameters (i : Instr) (s t : State) (h : exec i s = .next t) : SameParameters s t := by
  obtain ⟨_, ⟨_, _, _, _, rfl⟩, rfl⟩ | ⟨_, -, rfl⟩ | ⟨-, ⟨_, rfl⟩ | ⟨_, -, rfl⟩ | ⟨_, -, -, rfl⟩ | rfl⟩ :=
    exec_next_cases i s t h
  case inr.inr.inr.inl => exact ⟨rfl, List.length_set, rfl⟩
  all_goals exact ⟨rfl, rfl, rfl⟩

theorem runUnassigned_keeps_parameters (s t : State) (b : Byte) (h : s.runUnassigned b = .next t) :
    SameParameters s t := by
  obtain rfl | ⟨_, _, -, rfl⟩ := s.runUnassigned_next b t h <;>
    exact ⟨rfl, s.afterUnassigned_stack_length b, rfl⟩

/-- Without a transfer of control `pc` moves past the instruction (R10, R29). -/
theorem exec_pc_of_sequential (i : Instr) (s t : State) (h : exec i s = .next t) (seq : transfersControl i = false) :
    t.pc = s.pc + BitVec.ofNat 14 i.length := by
  obtain ⟨_, ⟨_, _, _, _, rfl⟩, rfl⟩ | ⟨_, -, rfl⟩ | ⟨transfers, -⟩ := exec_next_cases i s t h
  · rfl
  · rfl
  · simp [seq] at transfers

/-! ### When an instruction completes -/

/-- With the pointer in its range, an instruction completes exactly if the machine grants what it asks for (R37, R56, R57). -/
theorem exec_completes_iff (i : Instr) (s : State) (inRange : s.stp ≤ s.stack.length) :
    (∃ t, exec i s = .next t) ↔
      ((readsM i = true → s.readable s.maddr = true) ∧ (storesToM i = true → s.writable s.maddr = true)) ∧
        (pushes i s = true → s.stp < s.stack.length) ∧ (pops i s = true → 0 < s.stp) := by
  have shape := exec_shape i s
  generalize exec i s = r at shape
  cases shape with
  | sequential u _ asks => simp [asks.readM, asks.writeM, asks.push, asks.pop]
  | load f _ asks =>
    rcases s.withM_eq fun v => .next ((f v).advance i.length) with ⟨hm, e⟩ | ⟨hm, e⟩ <;>
      simp [e, hm, asks.readM, asks.writeM, asks.push, asks.pop]
  | store v asks =>
    rcases s.storeM_eq v fun u => .next (u.advance i.length) with ⟨hm, e⟩ | ⟨hm, e⟩ <;>
      simp [e, hm, asks.readM, asks.writeM, asks.push, asks.pop]
  | goTo target asks => simp [asks.readM, asks.writeM, asks.push, asks.pop]
  | call target asks =>
    rcases s.callTo_eq i.length target with ⟨room, e⟩ | ⟨room, e⟩ <;>
      simp [e, room, asks.readM, asks.writeM, asks.push, asks.pop]
  | ret asks =>
    rcases s.returnFrom_eq with ⟨v, held, -, e⟩ | ⟨empty, e⟩
    · simp [e, held, asks.readM, asks.writeM, asks.push, asks.pop]
    · have none_held : s.stp = 0 := by omega
      simp [e, none_held, asks.readM, asks.writeM, asks.push, asks.pop]
  | halt asks => simp [asks.readM, asks.writeM, asks.push, asks.pop]

/-- The accesses of R53 are those to the instruction's own bytes and the one to M, so the map allows them all exactly if it allows
these. -/
theorem accesses_allowed_iff (i : Instr) (s : State) :
    (∀ x ∈ accesses i s, deniedAt s x = none) ↔
      s.BytesReadable i.length ∧
        (readsM i = true → s.readable s.maddr = true) ∧ (storesToM i = true → s.writable s.maddr = true) := by
  cases i <;>
    simp [accesses, deniedAt, readsM, storesToM, Instr.length, encode, addrBytes, and_assoc]

/-! ### The free effect of an unassigned byte -/

theorem State.afterUnassigned_reg (s : State) (b : Byte) (r : Reg) :
    (s.afterUnassigned b).reg r = Config.unassignedRegister s.unassignedRuns b r := by
  cases r <;> rfl

theorem State.afterUnassigned_flag (s : State) (b : Byte) (c : Flag) :
    (s.afterUnassigned b).flag c = Config.unassignedFlag s.unassignedRuns b c := by
  cases c <;> rfl

theorem State.afterUnassigned_outputs_cases (s : State) (b : Byte) :
    (s.afterUnassigned b).outputs = s.outputs ∨
      ∃ p v, (s.afterUnassigned b).outputs = s.outputs ++ [(p, v)] ∧ 8 ≤ p.toNat := by
  rw [s.afterUnassigned_outputs b]
  obtain e | ⟨p, v, e, port⟩ := unassignedEvents_eq s.unassignedRuns b
  · exact .inl (by rw [e, List.append_nil])
  · exact .inr ⟨p, v, by rw [e], port⟩

/-- Where the map allows the byte's memory write, if any, the state after it is `afterUnassigned` but for memory, and in memory only
the byte written can differ (R57, log 9). -/
theorem State.runUnassigned_of_writable (s : State) (b : Byte)
    (allowed : ∀ a v, Config.unassignedStore s.unassignedRuns b = some (a, v) → s.writable a = true) :
    ∃ t, s.runUnassigned b = .next t ∧ t = { s.afterUnassigned b with mem := t.mem } ∧
      (∀ a v, Config.unassignedStore s.unassignedRuns b = some (a, v) → t.byteAt a = v) ∧
      ∀ a, (∀ v, Config.unassignedStore s.unassignedRuns b ≠ some (a, v)) → t.byteAt a = s.byteAt a := by
  obtain ⟨wrote, e⟩ | ⟨a, v, wrote, ⟨-, e⟩ | ⟨denied, -⟩⟩ := s.runUnassigned_eq b
  · exact ⟨_, e, rfl, by simp [wrote], fun _ _ => rfl⟩
  · refine ⟨_, e, rfl, ?_, fun a' kept => ?_⟩
    · simp [wrote]
    · have other : a' ≠ a := fun same => kept v (same ▸ wrote)
      rw [State.byteAt_poke, if_neg other]
      rfl
  · simp [allowed a v wrote] at denied

/-- Where the map forbids the byte's memory write, the free effect is that fault (R57, log 9). -/
theorem State.runUnassigned_of_not_writable (s : State) (b : Byte) (a : Addr) (v : Byte)
    (wrote : Config.unassignedStore s.unassignedRuns b = some (a, v)) (denied : s.writable a = false) :
    s.runUnassigned b = .fault (.unmappedAccess a) := by
  obtain ⟨wrote', -⟩ | ⟨a', v', wrote', ⟨allowed, -⟩ | ⟨-, e⟩⟩ := s.runUnassigned_eq b <;> rw [wrote] at wrote' <;>
    cases wrote'
  · simp [denied] at allowed
  · exact e

theorem State.runUnassigned_completes_iff (s : State) (b : Byte) :
    (∃ t, s.runUnassigned b = .next t) ↔
      ∀ a v, Config.unassignedStore s.unassignedRuns b = some (a, v) → s.writable a = true := by
  constructor
  · rintro ⟨t, completes⟩ a v wrote
    by_contra denied
    rw [s.runUnassigned_of_not_writable b a v wrote (eq_false_of_ne_true denied)] at completes
    cases completes
  · intro allowed
    obtain ⟨t, completes, -⟩ := s.runUnassigned_of_writable b allowed
    exact ⟨t, completes⟩

/-- Where `unassigned_opcode` is `free`, a readable unassigned byte at `pc` takes its free effect (R6, R85, D5). -/
theorem step_of_unassigned_byte (s : State) (running : s.halted = false) (readable : s.readable s.pc = true)
    (unassigned : decodeHead (s.byteAt s.pc) = none) (free : s.unassigned = .free) :
    step s = s.runUnassigned (s.byteAt s.pc) := by
  have fetched := (fetch_eq_illegal_iff s _ s.pc).mpr ⟨running, readable, rfl, rfl, unassigned⟩
  rw [step_of_illegal s _ s.pc fetched, State.unassignedByte, free]

/-- A step completes exactly if the fetched instruction does, or the free effect of a fetched unassigned byte (R10, R85). -/
theorem step_completes_iff (s : State) :
    (∃ t, step s = .next t) ↔
      (∃ i, s.fetch = .ok i ∧ ∃ t, exec i s = .next t) ∨
        (s.fetch = .error (.illegalOpcode (s.byteAt s.pc) s.pc) ∧ s.unassigned = .free ∧
          ∃ t, s.runUnassigned (s.byteAt s.pc) = .next t) := by
  constructor
  · rintro ⟨t, completes⟩
    obtain ⟨i, fetched, ran⟩ | ⟨b, p, fetched, free, ran⟩ := step_next s t completes
    · exact .inl ⟨i, fetched, t, ran⟩
    · obtain ⟨-, -, rfl, rfl, -⟩ := fetch_illegal s b p fetched
      exact .inr ⟨fetched, free, t, ran⟩
  · rintro (⟨i, fetched, t, ran⟩ | ⟨fetched, free, t, ran⟩)
    · exact ⟨t, (step_of_fetch s i fetched).trans ran⟩
    · obtain ⟨running, readable, -, -, unassigned⟩ := fetch_illegal s _ _ fetched
      exact ⟨t, (step_of_unassigned_byte s running readable unassigned free).trans ran⟩

/-! ### The statements -/

/-- Settles O11: the fetch succeeds, and a step runs what was fetched. -/
theorem stepRunsTheDecodedInstruction : Obligations.StepRunsTheDecodedInstruction := by
  intro s i rest running dec readable
  exact step_of_fetch s i ((fetch_of_decode_window s i rest running dec).mpr readable)

/-- Settles O44, by the two ways a step completes. -/
theorem stepKeepsTheParameters : Obligations.StepKeepsTheParameters := by
  intro s t completes
  obtain ⟨i, -, ran⟩ | ⟨b, _, -, -, ran⟩ := step_next s t completes
  · exact exec_keeps_parameters i s t ran
  · exact runUnassigned_keeps_parameters s t b ran

/-- Settles O53: the advance of `exec_pc_of_sequential`, read as a number. -/
theorem sequentialInstructionsAdvanceByTheirLength : Obligations.SequentialInstructionsAdvanceByTheirLength := by
  intro i s t completes seq
  rw [exec_pc_of_sequential i s t completes seq]
  simp [BitVec.toNat_add]

/-- Settles O7: the step is the free effect, which faults or completes as the map says of its write. -/
theorem unassignedByteHasAFreeEffectIfTheParameterSaysSo :
    Obligations.UnassignedByteHasAFreeEffectIfTheParameterSaysSo := by
  intro s running readable six free
  have ran : step s = s.runUnassigned (s.byteAt s.pc) :=
    step_of_unassigned_byte s running readable ((decodeHead_eq_none_iff _).mpr six) free
  refine ⟨fun a v wrote denied => ran.trans (s.runUnassigned_of_not_writable _ a v wrote denied), fun allowed => ?_⟩
  obtain ⟨t, completes, frame, written, kept⟩ := s.runUnassigned_of_writable _ allowed
  refine ⟨t, ran.trans completes, ?_⟩
  generalize t.mem = m at frame
  subst frame
  exact ⟨running, rfl, free, rfl, rfl, s.afterUnassigned_stack_length _, s.afterUnassigned_stp_le _, rfl,
    s.afterUnassigned_reg _, s.afterUnassigned_flag _, written, kept, s.afterUnassigned_outputs_cases _⟩

/-- Settles O14: the two ways a step completes, each with the condition on its fetch and on its effect. -/
theorem stepCompletesExactlyWhen : Obligations.StepCompletesExactlyWhen := by
  intro s inRange
  rw [step_completes_iff]
  simp only [fetch_eq_ok_iff, exec_completes_iff _ s inRange, accesses_allowed_iff, fetch_eq_illegal_iff,
    decode_window_eq_unassigned_iff, State.runUnassigned_completes_iff, true_and]
  constructor
  · rintro (⟨i, ⟨running, ⟨rest, dec⟩, bytes⟩, atM, stack⟩ | ⟨⟨running, readable, unassigned⟩, free, store⟩)
    · exact ⟨running, .inl ⟨i, rest, dec, ⟨bytes, atM⟩, stack⟩⟩
    · exact ⟨running, .inr ⟨unassigned, free, readable, store⟩⟩
  · rintro ⟨running, ⟨i, rest, dec, ⟨bytes, atM⟩, stack⟩ | ⟨unassigned, free, readable, store⟩⟩
    · exact .inl ⟨i, ⟨running, ⟨rest, dec⟩, bytes⟩, atM, stack⟩
    · exact .inr ⟨⟨running, readable, unassigned⟩, free, store⟩

end Sys2Proof.Machine
end

section
/-! PROOFS. What the instructions do with the state (10_state R20 to R44): what a completed instruction writes and leaves alone,
which flags it reads, the invariant along runs, and the canonical form of memory. -/

namespace Sys2Proof

/-! ### What the decoder builds -/

/-- The instructions an opcode byte can announce: the format, completed by whatever operand bytes (R70, R80). -/
def Head.Builds : Head → Instr → Prop
  | .f1 j, i => i = j
  | .f2 build, i => ∃ v, i = build v
  | .f3 build, i => ∃ t, i = build t

/-- A decoded instruction is one its opcode byte announces (R80, R81). -/
theorem builds_of_decode {b : Byte} {after rest : List Byte} {i : Instr} (dec : decode (b :: after) = .ok (i, rest)) :
    ∃ head, decodeHead b = some head ∧ head.Builds i := by
  simp only [decode] at dec
  cases hd : decodeHead b with
  | none => simp [hd] at dec
  | some head =>
    refine ⟨head, rfl, ?_⟩
    simp only [hd] at dec
    cases head with
    | f1 j =>
      cases dec
      rfl
    | f2 build | f3 build =>
      dsimp only at dec
      split at dec <;> cases dec
      exact ⟨_, rfl⟩

theorem wellFormed_of_builds {b : Byte} {head : Head} {i : Instr} (hd : decodeHead b = some head)
    (built : head.Builds i) : i.WellFormed := by
  have spec := decodeHead_spec b
  rw [HeadSpec, hd] at spec
  cases head with
  | f1 j =>
    obtain rfl := built
    obtain ⟨-, -, wf, -⟩ := spec
    exact wf
  | f2 build =>
    obtain ⟨v, rfl⟩ := built
    obtain ⟨-, -, all⟩ := spec
    exact (all v).1
  | f3 build =>
    obtain ⟨t, rfl⟩ := built
    obtain ⟨-, -, c, -, all⟩ := spec
    exact (all t).1

/-- The instruction is HLT, in either of its two rows (R210, R212). -/
def Instr.halts : Instr → Bool
  | .hlt | .hltFF => true
  | _ => false

/-- The opcode byte announces HLT. -/
def Head.halts : Head → Bool
  | .f1 i => i.halts
  | .f2 _ | .f3 _ => false

/-- The opcode map has HLT at three bytes (R88, R210, R212). -/
theorem any_halts_decodeHead (b : Byte) :
    (decodeHead b).any Head.halts = true ↔ b = 0x00 ∨ b = 0x01 ∨ b = 0xFF := by
  revert b
  decide

/-- An instruction longer than one byte is no HLT. -/
theorem Instr.halts_eq_false {i : Instr} (long : 1 < i.length) : i.halts = false := by
  cases i with
  | hlt | hltFF => exact absurd long (Nat.lt_irrefl 1)
  | _ => rfl

theorem halts_of_builds {b : Byte} {head : Head} {i : Instr} (hd : decodeHead b = some head) (built : head.Builds i) :
    i.halts = head.halts := by
  cases head with
  | f1 j =>
    obtain rfl := built
    rfl
  | f2 build =>
    obtain ⟨v, rfl⟩ := built
    exact Instr.halts_eq_false (by simp [Machine.length_of_decodeHead_f2 hd])
  | f3 build =>
    obtain ⟨t, rfl⟩ := built
    exact Instr.halts_eq_false (by simp [Machine.length_of_decodeHead_f3 hd])

end Sys2Proof

namespace Sys2Proof.Machine

/-! ### What a fetch answers -/

theorem builds_of_fetch {s : State} {i : Instr} (fetched : s.fetch = .ok i) :
    ∃ head, decodeHead (s.byteAt s.pc) = some head ∧ head.Builds i := by
  obtain ⟨-, rest, dec⟩ := decode_window_of_fetch s i fetched
  exact builds_of_decode dec

/-- Only instructions are fetched: INC and DCR never name A, OUT names a port 8 to 31 (R112, R202). -/
theorem wellFormed_of_fetch {s : State} {i : Instr} (fetched : s.fetch = .ok i) : i.WellFormed := by
  obtain ⟨head, hd, built⟩ := builds_of_fetch fetched
  exact wellFormed_of_builds hd built

/-- The instruction fetched is HLT exactly if one of the three bytes of HLT stands at `pc`. -/
theorem halts_iff_of_fetch {s : State} {i : Instr} (fetched : s.fetch = .ok i) :
    i.halts = true ↔ s.byteAt s.pc = 0x00 ∨ s.byteAt s.pc = 0x01 ∨ s.byteAt s.pc = 0xFF := by
  obtain ⟨head, hd, built⟩ := builds_of_fetch fetched
  rw [halts_of_builds hd built, ← any_halts_decodeHead, hd, Option.any_some]

/-! ### Registers, outputs and the halt -/

/-- The history of output events after `i`: OUT alone adds one (R203). -/
def outputsAfter (i : Instr) (s : State) : List (BitVec 5 × Byte) :=
  match i with
  | .out p => s.outputs ++ [(p, s.regs.a)]
  | _ => s.outputs

/-- What `i`, run in `s`, leaves of registers, output history and halt in `t`. -/
structure WritesAsTabled (i : Instr) (s t : State) : Prop where
  regs : ∀ r, regWritten i ≠ some r → t.reg r = s.reg r
  outputs : t.outputs = outputsAfter i s
  halted : t.halted = (i.halts || s.halted)

/-- A write to the register R23 names keeps the others (R24). -/
theorem reg_kept_of_set {i : Instr} {s t : State} {dst : Reg} {v : Byte} (tabled : regWritten i = some dst)
    (written : t.regs = s.regs.set dst v) (r : Reg) (other : regWritten i ≠ some r) : t.reg r = s.reg r := by
  have ne : r ≠ dst := fun same => other (same ▸ tabled)
  rw [State.reg, written, Regs.get_set_of_ne _ _ _ _ ne, State.reg]

/-- Every instruction writes as R23 and R203 say: a data instruction the register of its row, a transfer of control none. -/
theorem exec_writesAsTabled (i : Instr) (s t : State) (completes : exec i s = .next t) : WritesAsTabled i s t := by
  cases i with
  | movRR _ _ | mviR _ _ | incR _ | dcrR _ | rlc | rrc | ral | rar
  | addR _ | adi _ | adcR _ | aci _ | subR _ | sui _ | sbbR _ | sbi _
  | anaR _ | ani _ | oraR _ | ori _ | xraR _ | xri _ | inp _ =>
    cases completes
    exact ⟨reg_kept_of_set rfl rfl, rfl, rfl⟩
  | movRM _ | addM | adcM | subM | sbbM | anaM | oraM | xraM =>
    obtain ⟨-, e⟩ := s.withM_next _ t completes
    cases e
    exact ⟨reg_kept_of_set rfl rfl, rfl, rfl⟩
  | cmpM =>
    obtain ⟨-, e⟩ := s.withM_next _ t completes
    cases e
    exact ⟨fun _ _ => rfl, rfl, rfl⟩
  | movMR _ | mviM _ =>
    obtain ⟨-, e⟩ := s.storeM_next _ _ t completes
    cases e
    exact ⟨fun _ _ => rfl, rfl, rfl⟩
  | cmpR _ | cpi _ | jmp _ | out _ | hlt | hltFF =>
    cases completes
    exact ⟨fun _ _ => rfl, rfl, rfl⟩
  | nop =>
    cases completes
    exact ⟨fun r _ => congrArg (·.get r) (s.regs.set_get .a), rfl, rfl⟩
  | jf _ _ | jt _ _ =>
    simp only [exec, execJf, execJt] at completes
    split at completes <;> cases completes <;> exact ⟨fun _ _ => rfl, rfl, rfl⟩
  | call _ | rst _ =>
    obtain ⟨-, rfl⟩ := s.callTo_next _ _ t completes
    exact ⟨fun _ _ => rfl, rfl, rfl⟩
  | cf _ _ | ct _ _ =>
    simp only [exec, execCf, execCt] at completes
    split at completes
    · obtain ⟨-, rfl⟩ := s.callTo_next _ _ t completes
      exact ⟨fun _ _ => rfl, rfl, rfl⟩
    · cases completes
      exact ⟨fun _ _ => rfl, rfl, rfl⟩
  | ret =>
    obtain ⟨_, -, -, rfl⟩ := s.returnFrom_next t completes
    exact ⟨fun _ _ => rfl, rfl, rfl⟩
  | rf _ | rt _ =>
    simp only [exec, execRf, execRt] at completes
    split at completes
    · obtain ⟨_, -, -, rfl⟩ := s.returnFrom_next t completes
      exact ⟨fun _ _ => rfl, rfl, rfl⟩
    · cases completes
      exact ⟨fun _ _ => rfl, rfl, rfl⟩

/-! ### Memory and the address stack -/

/-- The states `i` can leave `s` in, each with what `i` asks of the machine: `exec_shape` where the instruction completes. -/
inductive Completion (i : Instr) (s : State) : State → Prop
  | data (u : State) (readM : Bool) (data : DataOnly s u) (asks : Asks i s readM false false false) :
      Completion i s (u.advance i.length)
  | store (v : Byte) (asks : Asks i s false true false false) : Completion i s ((s.poke s.maddr v).advance i.length)
  | goTo (target : Addr) (asks : Asks i s false false false false) : Completion i s (s.setPc target)
  | push (target : Addr) (room : s.stp < s.stack.length) (asks : Asks i s false false true false) :
      Completion i s
        { s with stack := s.stack.set s.stp (s.pc + BitVec.ofNat 14 i.length), stp := s.stp + 1, pc := target }
  | pop (v : Addr) (held : 0 < s.stp) (asks : Asks i s false false false true) :
      Completion i s { s with stp := s.stp - 1, pc := v }
  | halt (asks : Asks i s false false false false) : Completion i s s.halt

theorem exec_completion (i : Instr) (s t : State) (completes : exec i s = .next t) : Completion i s t := by
  have shape := exec_shape i s
  rw [completes] at shape
  generalize answered : Host.Outcome.next t = r at shape
  cases shape with
  | sequential u data asks =>
    cases answered
    exact .data u false data asks
  | load f data asks =>
    obtain ⟨-, e⟩ := s.withM_next _ t answered.symm
    cases e
    exact .data _ true (data _) asks
  | store v asks =>
    obtain ⟨-, e⟩ := s.storeM_next v _ t answered.symm
    cases e
    exact .store v asks
  | goTo target asks =>
    cases answered
    exact .goTo target asks
  | call target asks =>
    obtain ⟨room, rfl⟩ := s.callTo_next _ target t answered.symm
    exact .push target room asks
  | ret asks =>
    obtain ⟨v, held, -, rfl⟩ := s.returnFrom_next t answered.symm
    exact .pop v held asks
  | halt asks =>
    cases answered
    exact .halt asks

/-- A store pokes M, and nothing else changes memory (R41, R57). -/
theorem exec_mem_cases (i : Instr) (s t : State) (completes : exec i s = .next t) :
    (storesToM i = true ∧ ∃ v, t.mem = (s.poke s.maddr v).mem) ∨ (storesToM i = false ∧ t.mem = s.mem) := by
  cases exec_completion i s t completes with
  | store v asks => exact .inl ⟨asks.writeM, v, rfl⟩
  | data _ _ data asks =>
    obtain ⟨_, _, _, _, rfl⟩ := data
    exact .inr ⟨asks.writeM, rfl⟩
  | goTo _ asks | push _ _ asks | pop _ _ asks | halt asks => exact .inr ⟨asks.writeM, rfl⟩

/-- A push writes the entry at the pointer and moves it up, a pop moves it down, and nothing else touches the stack (R36, R37). -/
theorem exec_stack_cases (i : Instr) (s t : State) (completes : exec i s = .next t) :
    (pushes i s = true ∧ s.stp < s.stack.length ∧ t.stack = s.stack.set s.stp (s.pc + BitVec.ofNat 14 i.length) ∧
        t.stp = s.stp + 1) ∨
      (pops i s = true ∧ t.stack = s.stack ∧ t.stp + 1 = s.stp) ∨
      (pushes i s = false ∧ pops i s = false ∧ t.stack = s.stack ∧ t.stp = s.stp) := by
  cases exec_completion i s t completes with
  | push target room asks => exact .inl ⟨asks.push, room, rfl, rfl⟩
  | pop v held asks => exact .inr (.inl ⟨asks.pop, rfl, Nat.sub_add_cancel held⟩)
  | data _ _ data asks =>
    obtain ⟨_, _, _, _, rfl⟩ := data
    exact .inr (.inr ⟨asks.push, asks.pop, rfl, rfl⟩)
  | store _ asks | goTo _ asks | halt asks => exact .inr (.inr ⟨asks.push, asks.pop, rfl, rfl⟩)

theorem mayPush_of_pushes {i : Instr} {s : State} (h : pushes i s = true) : mayPush i = true := by
  cases i with
  | call _ | cf _ _ | ct _ _ | rst _ => rfl
  | _ => cases h

theorem mayPop_of_pops {i : Instr} {s : State} (h : pops i s = true) : mayPop i = true := by
  cases i with
  | ret | rf _ | rt _ => rfl
  | _ => cases h

/-- No instruction is a call and a return. -/
theorem mayPop_eq_false_of_mayPush {i : Instr} (h : mayPush i = true) : mayPop i = false := by
  cases i with
  | ret | rf _ | rt _ => cases h
  | _ => rfl

/-! ### Flags -/

/-- The flags `w` from `new`, the others from `old`. -/
def Flags.overlay (w : List Flag) (new old : Flags) : Flags where
  cy := if .cy ∈ w then new.cy else old.cy
  z := if .z ∈ w then new.z else old.z
  s := if .s ∈ w then new.s else old.s
  p := if .p ∈ w then new.p else old.p

theorem Flags.get_overlay (w : List Flag) (new old : Flags) (c : Flag) :
    (Flags.overlay w new old).get c = if c ∈ w then new.get c else old.get c := by
  cases c <;> rfl

/-- The state with every flag outside `w` as in `f`. -/
def State.restoreFlags (w : List Flag) (f : Flags) (t : State) : State := t.setFlags (.overlay w t.flags f)

/-- A change to the next state, if there is one. -/
def mapNext (g : State → State) : Result → Result
  | .next t => .next (g t)
  | .fault e => .fault e
  | .refused r => .refused r

theorem mapNext_eq_fault_iff (g : State → State) (r : Result) (e : Fault) : mapNext g r = .fault e ↔ r = .fault e := by
  cases r <;> simp [mapNext]

/-- Flags have no part in the access to M (R33, R56). -/
theorem State.withM_setFlags (s : State) (f : Flags) (g : State → State) (k k' : Byte → Result)
    (h : ∀ v, k' v = mapNext g (k v)) : (s.setFlags f).withM k' = mapNext g (s.withM k) := by
  change s.withM k' = _
  obtain ⟨-, e⟩ | ⟨-, e⟩ := s.loadByte_eq s.maddr
  · simp [State.withM, e, h]
  · simp [State.withM, e, mapNext]

/-- Flags have no part in a store to M (R33, R57). -/
theorem State.storeM_setFlags (s : State) (f : Flags) (v : Byte) (len : Nat) :
    ((s.setFlags f).storeM v fun u => .next (u.advance len)) =
      mapNext (·.setFlags f) (s.storeM v fun u => .next (u.advance len)) := by
  change orFault (if s.writable s.maddr then _ else _) _ = mapNext _ (orFault (if s.writable s.maddr then _ else _) _)
  cases s.writable s.maddr <;> rfl

/-- Flags have no part in a push (R37). -/
theorem State.callTo_setFlags (s : State) (f : Flags) (len : Nat) (target : Addr) :
    (s.setFlags f).callTo len target = mapNext (·.setFlags f) (s.callTo len target) := by
  change orFault (if s.stp < s.stack.length then _ else _) _ =
    mapNext _ (orFault (if s.stp < s.stack.length then _ else _) _)
  split <;> rfl

/-- Flags have no part in a pop (R37). -/
theorem State.returnFrom_setFlags (s : State) (f : Flags) :
    (s.setFlags f).returnFrom = mapNext (·.setFlags f) s.returnFrom := by
  simp only [State.returnFrom, State.pop, State.setFlags_stp, State.setFlags_stack]
  cases s.stp with
  | zero => rfl
  | succ n =>
    dsimp only
    cases s.stack[n]? <;> rfl

/-- A condition depends on its own flag only (R35, R192). -/
theorem State.taken_setFlags (s : State) (f : Flags) (c : Flag) (sense : Bool) (same : f.get c = s.flags.get c) :
    (s.setFlags f).taken c sense = s.taken c sense := by
  simp [State.taken, State.flag, same]

/-- R34 and R35 in one equation. Where `f` gives the flags that `i` reads the values they have in `s`, running `i` on `f` instead
answers the same, and `f` shows through exactly in the flags that `i` does not write. -/
theorem exec_setFlags (i : Instr) (s : State) (f : Flags) (same : ∀ c ∈ flagsRead i, f.get c = s.flags.get c) :
    exec i (s.setFlags f) = mapNext (State.restoreFlags (flagsWritten i) f) (exec i s) := by
  cases i with
  | movRR _ _ | mviR _ _ | incR _ | dcrR _ | rlc | rrc
  | addR _ | adi _ | subR _ | sui _
  | anaR _ | ani _ | oraR _ | ori _ | xraR _ | xri _ | cmpR _ | cpi _
  | inp _ | out _ | hlt | hltFF | nop | jmp _ => rfl
  | ral | rar | adcR _ | aci _ | sbbR _ | sbi _ =>
    obtain ⟨cy, _, _, _⟩ := f
    obtain rfl : cy = s.flags.cy := same .cy (List.mem_singleton_self _)
    rfl
  | movRM _ | addM | subM | anaM | oraM | xraM | cmpM => exact s.withM_setFlags _ _ _ _ fun _ => rfl
  | adcM | sbbM =>
    obtain ⟨cy, _, _, _⟩ := f
    obtain rfl : cy = s.flags.cy := same .cy (List.mem_singleton_self _)
    exact s.withM_setFlags _ _ _ _ fun _ => rfl
  | movMR _ | mviM _ => exact s.storeM_setFlags f _ _
  | jf c _ | jt c _ =>
    have taken := fun sense => s.taken_setFlags f c sense (same c (List.mem_singleton_self c))
    simp only [exec, execJf, execJt, taken]
    split <;> rfl
  | call _ | rst _ => exact s.callTo_setFlags f _ _
  | cf c _ | ct c _ =>
    have taken := fun sense => s.taken_setFlags f c sense (same c (List.mem_singleton_self c))
    simp only [exec, execCf, execCt, taken]
    split
    · exact s.callTo_setFlags f _ _
    · rfl
  | ret => exact s.returnFrom_setFlags f
  | rf c | rt c =>
    have taken := fun sense => s.taken_setFlags f c sense (same c (List.mem_singleton_self c))
    simp only [exec, execRf, execRt, taken]
    split
    · exact s.returnFrom_setFlags f
    · rfl

/-! ### The invariant -/

/-- An instruction outputs to a port 8 to 31 only (R202, R203). -/
theorem outputsAfter_ports {i : Instr} {s : State} (wf : i.WellFormed) (ports : ∀ e ∈ s.outputs, 8 ≤ e.1.toNat) :
    ∀ e ∈ outputsAfter i s, 8 ≤ e.1.toNat := by
  cases i with
  | out p =>
    intro e mem
    obtain old | rfl := List.mem_append.mp mem |>.imp_right List.mem_singleton.mp
    · exact ports e old
    · exact of_decide_eq_true wf
  | _ => exact ports

theorem exec_keeps_inv {i : Instr} {s t : State} (wf : i.WellFormed) (inv : s.Inv) (completes : exec i s = .next t) :
    t.Inv where
  memory := by
    obtain ⟨-, v, e⟩ | ⟨-, e⟩ := exec_mem_cases i s t completes <;> rw [e]
    · exact Memory.wf_write _ _ _ inv.memory
    · exact inv.memory
  pointer := by
    obtain ⟨-, depth, -⟩ := exec_keeps_parameters i s t completes
    have := inv.pointer
    obtain ⟨-, room, -, e⟩ | ⟨-, -, e⟩ | ⟨-, -, -, e⟩ := exec_stack_cases i s t completes <;> omega
  ports := by
    rw [(exec_writesAsTabled i s t completes).outputs]
    exact outputsAfter_ports wf inv.ports

theorem afterUnassigned_inv {s : State} (inv : s.Inv) (b : Byte) : (s.afterUnassigned b).Inv where
  memory := inv.memory
  pointer := s.afterUnassigned_stp_le b
  ports := by
    intro e mem
    rw [s.afterUnassigned_outputs b] at mem
    obtain old | new := List.mem_append.mp mem
    · exact inv.ports e old
    · obtain silent | ⟨p, v, one, port⟩ := unassignedEvents_eq s.unassignedRuns b
      · simp [silent] at new
      · rw [one, List.mem_singleton] at new
        exact new ▸ port

theorem poke_inv {s : State} (inv : s.Inv) (a : Addr) (v : Byte) : (s.poke a v).Inv where
  memory := Memory.wf_write _ _ _ inv.memory
  pointer := inv.pointer
  ports := inv.ports

theorem runUnassigned_keeps_inv {s t : State} {b : Byte} (inv : s.Inv) (completes : s.runUnassigned b = .next t) :
    t.Inv := by
  obtain rfl | ⟨a, v, -, rfl⟩ := s.runUnassigned_next b t completes
  · exact afterUnassigned_inv inv b
  · exact poke_inv (afterUnassigned_inv inv b) a v

theorem step_keeps_inv {s t : State} (inv : s.Inv) (completes : step s = .next t) : t.Inv := by
  obtain ⟨i, fetched, ran⟩ | ⟨b, _, -, -, ran⟩ := step_next s t completes
  · exact exec_keeps_inv (wellFormed_of_fetch fetched) inv ran
  · exact runUnassigned_keeps_inv inv ran

/-- What every step keeps, every run keeps. -/
theorem Reaches.inv {n : Nat} {s t : State} (run : Reaches n s t) (inv : s.Inv) : t.Inv := by
  induction n generalizing s with
  | zero => exact run ▸ inv
  | succ n ih =>
    obtain ⟨u, first, rest⟩ := run
    exact ih rest (step_keeps_inv inv first)

/-- Every reset draw starts with an empty stack and no event, so it meets the invariant (R42). -/
theorem State.ResetDraw.inv {s : State} (draw : s.ResetDraw) : s.Inv where
  memory := draw.memory
  pointer := by rw [draw.stp]; exact Nat.zero_le _
  ports := by simp [draw.outputs]

theorem reset_resetDraw : State.reset.ResetDraw := ⟨rfl, rfl, rfl, rfl, rfl⟩

/-! ### The canonical form of memory -/

/-- Below the first cell of a rising list nothing is listed. -/
theorem Memory.read_tail_of_le {m : Memory} {k a : Nat} (rising : Memory.risingFrom (k + 1) m = true) (h : a ≤ k) :
    m.read a = none :=
  Memory.read_of_lt m (k + 1) a rising (Nat.lt_succ_of_le h)

theorem Memory.read_cons (k : Nat) (v : Byte) (m : Memory) (a : Nat) :
    Memory.read ((k, v) :: m) a = if k = a then some v else Memory.read m a := rfl

/-- Rising lists that read the same are the same: the first cell of each is the lowest address at which anything is read. -/
theorem Memory.eq_of_read_eq (m m' : Memory) (lo lo' : Nat) (rising : Memory.risingFrom lo m = true)
    (rising' : Memory.risingFrom lo' m' = true) (same : ∀ a, m.read a = m'.read a) : m = m' := by
  induction m generalizing m' lo lo' with
  | nil =>
    cases m' with
    | nil => rfl
    | cons e' m' => simpa [Memory.read_cons e'.1 e'.2] using same e'.1
  | cons e m ih =>
    obtain ⟨k, v⟩ := e
    cases m' with
    | nil => simpa [Memory.read_cons] using same k
    | cons e' m' =>
      obtain ⟨k', v'⟩ := e'
      simp only [Memory.risingFrom, Bool.and_eq_true, decide_eq_true_eq] at rising rising'
      obtain ⟨-, tail⟩ := rising
      obtain ⟨-, tail'⟩ := rising'
      obtain lt | rfl | gt := Nat.lt_trichotomy k k'
      · have at_k := same k
        simp [Memory.read_cons, Nat.ne_of_gt lt, Memory.read_tail_of_le tail' (Nat.le_of_lt lt)] at at_k
      · have values : v = v' := by simpa [Memory.read_cons] using same k
        have tails : ∀ a, Memory.read m a = Memory.read m' a := by
          intro a
          by_cases low : a ≤ k
          · rw [Memory.read_tail_of_le tail low, Memory.read_tail_of_le tail' low]
          · simpa [Memory.read_cons, show k ≠ a by omega] using same a
        rw [values, ih m' _ _ tail tail' tails]
      · have at_k' := same k'
        simp [Memory.read_cons, Nat.ne_of_gt gt, Memory.read_tail_of_le tail (Nat.le_of_lt gt)] at at_k'

/-! ### The address of M -/

/-- H[5:0] above L, as a number (R33). -/
theorem State.maddr_toNat (s : State) : s.maddr.toNat = (s.reg .h).toNat % 64 * 256 + (s.reg .l).toNat := by
  have low : s.regs.l.toNat < 2 ^ 8 := s.regs.l.isLt
  have joined : s.maddr.toNat = (s.regs.h.extractLsb' 0 6).toNat <<< 8 ||| s.regs.l.toNat := BitVec.toNat_append _ _
  rw [joined, ← Nat.shiftLeft_add_eq_or_of_lt low, Nat.shiftLeft_eq, BitVec.extractLsb'_toNat]
  rfl

/-! ### The statements -/

/-- Settles O40, by the two ways a step completes. -/
theorem stepKeepsTheInvariant : Obligations.StepKeepsTheInvariant :=
  fun _ _ inv completes => step_keeps_inv inv completes

/-- Settles O18: the address as a number holds the low six bits of H only. -/
theorem addressOfMIsLowSixBitsOfHAboveL : Obligations.AddressOfMIsLowSixBitsOfHAboveL := by
  intro s
  refine ⟨s.maddr_toNat, fun v low => ?_, _, rfl, rfl, rfl⟩
  apply BitVec.eq_of_toNat_eq
  have kept : (s.setReg .h v).reg .l = s.reg .l := rfl
  have new : (s.setReg .h v).reg .h = v := rfl
  rw [State.maddr_toNat, State.maddr_toNat, kept, new, low]

/-- Settles O35: the entry a push wrote stands where the pop reads it. -/
theorem returnUndoesACall : Obligations.ReturnUndoesACall := by
  intro s t u i push completes sameStack samePointer
  obtain ⟨-, room, stack, pointer⟩ | ⟨pop, -⟩ | ⟨noPush, -⟩ := exec_stack_cases i s t completes
  · obtain ⟨v, -, entry, e⟩ | ⟨none_held, -⟩ := u.returnFrom_eq
    · rw [sameStack, samePointer, stack, pointer, Nat.add_sub_cancel, List.getElem?_set_self room] at entry
      rw [samePointer, pointer, Nat.add_sub_cancel, ← Option.some.inj entry] at e
      exact e
    · rw [sameStack, samePointer, stack, pointer, List.length_set] at none_held
      omega
  · have ret := mayPop_of_pops pop
    simp [mayPop_eq_false_of_mayPush (mayPush_of_pushes push)] at ret
  · simp [push] at noPush

/-- Settles O42: a reset draw meets the invariant, and every run keeps it. -/
theorem everyRunFromResetKeepsTheInvariant : Obligations.EveryRunFromResetKeepsTheInvariant :=
  ⟨reset_resetDraw, fun _ _ _ draw run => run.inv draw.inv⟩

/-- Settles O47: an instruction halts exactly if it is HLT, and an unassigned byte neither halts nor is a byte of HLT. -/
theorem onlyHaltBytesHalt : Obligations.OnlyHaltBytesHalt := by
  intro s t completes
  obtain ⟨i, fetched, ran⟩ | ⟨b, p, fetched, -, ran⟩ := step_next s t completes
  · obtain ⟨running, -⟩ := decode_window_of_fetch s i fetched
    rw [(exec_writesAsTabled i s t ran).halted, running, Bool.or_false, halts_iff_of_fetch fetched]
  · obtain ⟨running, -, -, -, unassigned⟩ := fetch_illegal s b p fetched
    have kept : t.halted = s.halted := by
      obtain rfl | ⟨_, _, -, rfl⟩ := s.runUnassigned_next b t ran <;> rfl
    rw [← any_halts_decodeHead, unassigned, kept, running, Option.any_none]

/-- Settles O48, by the case analysis of `exec_writesAsTabled`. -/
theorem registersWrittenAsTabled : Obligations.RegistersWrittenAsTabled :=
  fun i s t r completes other => (exec_writesAsTabled i s t completes).regs r other

/-- Settles O49: `exec_setFlags` at the flags that stand there already. -/
theorem flagsWrittenAsTabled : Obligations.FlagsWrittenAsTabled := by
  intro i s t c completes unwritten
  have e := exec_setFlags i s s.flags fun _ _ => rfl
  change exec i s = _ at e
  rw [completes] at e
  have kept : t.flags = .overlay (flagsWritten i) t.flags s.flags := congrArg State.flags (Host.Outcome.next.inj e)
  rw [State.flag, kept, Flags.get_overlay, if_neg unwritten, State.flag]

/-- Settles O50: both parts read off `exec_setFlags`. -/
theorem flagsReadAsTabled : Obligations.FlagsReadAsTabled := by
  intro i s f same
  have e := exec_setFlags i s f same
  refine ⟨fun fault => by rw [e, mapNext_eq_fault_iff], fun t completes => ?_⟩
  rw [completes] at e
  refine ⟨_, e, rfl, fun c written => ?_⟩
  exact (Flags.get_overlay _ _ _ _).trans (if_pos written)

/-- Settles O51, by what a completed instruction can do to the stack. -/
theorem onlyCallsAndReturnsTouchTheStack : Obligations.OnlyCallsAndReturnsTouchTheStack := by
  intro i s t completes
  obtain ⟨push, -, -, up⟩ | ⟨pop, stack, down⟩ | ⟨-, -, stack, pointer⟩ := exec_stack_cases i s t completes
  · have call := mayPush_of_pushes push
    simp [call, mayPop_eq_false_of_mayPush call, up]
  · have ret := mayPop_of_pops pop
    have noCall : mayPush i = false := by
      by_contra call
      simp [mayPop_eq_false_of_mayPush (by simpa using call)] at ret
    simp [ret, noCall, stack, down]
  · simp [stack, pointer]

/-- Settles O52: M is the only cell a store pokes. -/
theorem onlyStoresChangeMemory : Obligations.OnlyStoresChangeMemory := by
  intro i s t completes
  obtain ⟨store, v, mem⟩ | ⟨noStore, mem⟩ := exec_mem_cases i s t completes
  · refine ⟨by simp [store], fun _ a other => ?_⟩
    rw [State.byteAt_congr _ _ mem, State.byteAt_poke, if_neg other]
  · exact ⟨fun _ => mem, by simp [noStore]⟩

/-- Settles O57, from the lowest cell on. -/
theorem canonicalMemoriesAreDeterminedByTheirBytes : Obligations.CanonicalMemoriesAreDeterminedByTheirBytes :=
  fun m m' wf wf' same => Memory.eq_of_read_eq m m' 0 0 wf wf' same

/-- Settles O41: the reset state is a reset draw. -/
theorem resetMeetsTheInvariant : Obligations.ResetMeetsTheInvariant := reset_resetDraw.inv

/-- Settles O43: the reset state is a reset draw. -/
theorem resetStartsAtAddressZero : Obligations.ResetStartsAtAddressZero :=
  ⟨reset_resetDraw.pc, reset_resetDraw.stp, reset_resetDraw.running⟩

end Sys2Proof.Machine
end

section
/-! PROOFS. Memory and its map (20_memory R50 to R66): an M operand where the map allows the access and where it does not, the first
forbidden access of a step, a store seen by the fetch and by the load behind it, and memory that is not RAM along runs. -/

namespace Sys2Proof.Machine

/-! ### An M operand the map allows -/

theorem State.withM_of_readable {s : State} (readable : s.readable s.maddr = true) (k : Byte → Result) :
    s.withM k = k (s.byteAt s.maddr) := by
  obtain ⟨-, e⟩ | ⟨denied, -⟩ := s.withM_eq k
  · exact e
  · simp [readable] at denied

theorem State.storeM_of_writable {s : State} (writable : s.writable s.maddr = true) (v : Byte) (k : State → Result) :
    s.storeM v k = k (s.poke s.maddr v) := by
  obtain ⟨-, e⟩ | ⟨denied, -⟩ := s.storeM_eq v k
  · exact e
  · simp [writable] at denied

/-- Both stores, where the map lets M be written: the byte stands at M and `pc` behind the instruction (R103, R104). -/
theorem exec_store_of_writable {store : Instr} {s : State} {v : Byte} {len : Nat}
    (form : (∃ r, store = .movMR r ∧ v = s.reg r ∧ len = 1) ∨ (store = .mviM v ∧ len = 2))
    (writable : s.writable s.maddr = true) :
    store.length = len ∧ exec store s = .next ((s.poke s.maddr v).advance len) := by
  obtain ⟨r, rfl, rfl, rfl⟩ | ⟨rfl, rfl⟩ := form <;> exact ⟨rfl, s.storeM_of_writable writable _ _⟩

/-- The load, where the map lets M be read: the byte at M in the register and `pc` behind the instruction (R101). -/
theorem exec_movRM_of_readable (dst : Reg) {s : State} (readable : s.readable s.maddr = true) :
    exec (.movRM dst) s = .next ((s.setReg dst (s.byteAt s.maddr)).advance 1) :=
  State.withM_of_readable readable _

/-! ### The accesses of R53, in two parts -/

/-- The accesses to the `n` bytes from `pc` on, the opcode fetch first (R53). -/
def State.byteAccesses (s : State) : Nat → List Access
  | 0 => []
  | n + 1 => .fetch s.pc :: (List.range n).map fun k => .read (s.pc + BitVec.ofNat 14 (k + 1))

theorem State.byteAccesses_one (s : State) : s.byteAccesses 1 = [.fetch s.pc] := rfl

theorem State.byteAccesses_two (s : State) : s.byteAccesses 2 = [.fetch s.pc, .read (s.pc + 1)] := rfl

theorem State.byteAccesses_three (s : State) :
    s.byteAccesses 3 = [.fetch s.pc, .read (s.pc + 1), .read (s.pc + 2)] := rfl

/-- The accesses an instruction makes behind its own bytes: to M or to a port (R53). -/
def dataAccesses (i : Instr) (s : State) : List Access :=
  match i with
  | .movRM _ | .addM | .adcM | .subM | .sbbM | .anaM | .oraM | .xraM | .cmpM => [.read s.maddr]
  | .movMR _ | .mviM _ => [.write s.maddr]
  | .inp p => [.portIn p]
  | .out p => [.portOut p]
  | _ => []

theorem accesses_eq_append (i : Instr) (s : State) : accesses i s = s.byteAccesses i.length ++ dataAccesses i s := by
  cases i <;> rfl

/-- The map has no say over a port, so behind the instruction's own bytes it can forbid the access to M only (R56, R57). -/
theorem findSome?_dataAccesses (i : Instr) (s : State) :
    (dataAccesses i s).findSome? (deniedAt s) =
      if readsM i then deniedAt s (.read s.maddr) else if storesToM i then deniedAt s (.write s.maddr) else none := by
  cases i with
  | movRM _ | addM | adcM | subM | sbbM | anaM | oraM | xraM | cmpM | movMR _ | mviM _ =>
    exact List.findSome?_singleton
  | _ => rfl

/-! ### Where the map stops a meaning and a fetch -/

/-- An instruction's meaning faults with UnmappedAccess exactly where the map forbids the access to M (R56, R57, D12). -/
theorem exec_eq_unmapped_iff (i : Instr) (s : State) (a : Addr) :
    exec i s = .fault (.unmappedAccess a) ↔ (dataAccesses i s).findSome? (deniedAt s) = some a := by
  have shape := exec_shape i s
  rw [findSome?_dataAccesses]
  generalize exec i s = r at shape
  cases shape with
  | sequential _ _ asks | goTo _ asks | halt asks => simp [asks.readM, asks.writeM]
  | load f _ asks =>
    obtain ⟨hm, e⟩ | ⟨hm, e⟩ := s.withM_eq fun v => .next ((f v).advance i.length) <;>
      simp [e, hm, asks.readM, deniedAt]
  | store v asks =>
    obtain ⟨hm, e⟩ | ⟨hm, e⟩ := s.storeM_eq v fun u => .next (u.advance i.length) <;>
      simp [e, hm, asks.readM, asks.writeM, deniedAt]
  | call target asks =>
    obtain ⟨-, e⟩ | ⟨-, e⟩ := s.callTo_eq i.length target <;> simp [e, asks.readM, asks.writeM]
  | ret asks =>
    obtain ⟨_, -, -, e⟩ | ⟨-, e⟩ := s.returnFrom_eq <;> simp [e, asks.readM, asks.writeM]

theorem exec_of_unreadable_M {i : Instr} {s : State} (reads : readsM i = true) (denied : s.readable s.maddr = false) :
    exec i s = .fault (.unmappedAccess s.maddr) := by
  rw [exec_eq_unmapped_iff, findSome?_dataAccesses]
  simp [reads, deniedAt, denied]

/-- No instruction has M as a source and as its destination. -/
theorem readsM_eq_false_of_storesToM {i : Instr} (stores : storesToM i = true) : readsM i = false := by
  cases i with
  | movMR _ | mviM _ => rfl
  | _ => cases stores

theorem exec_of_unwritable_M {i : Instr} {s : State} (stores : storesToM i = true) (denied : s.writable s.maddr = false) :
    exec i s = .fault (.unmappedAccess s.maddr) := by
  rw [exec_eq_unmapped_iff, findSome?_dataAccesses]
  simp [readsM_eq_false_of_storesToM stores, stores, deniedAt, denied]

theorem State.findSome?_byteAccesses_eq_none_iff (s : State) (n : Nat) :
    (s.byteAccesses n).findSome? (deniedAt s) = none ↔ s.BytesReadable n := by
  cases n with
  | zero => simp [State.byteAccesses, State.BytesReadable]
  | succ n => simp [State.byteAccesses, deniedAt, s.bytesReadable_succ n]

theorem findSome?_fetch_cons (s : State) (a : Addr) (later : List Access) :
    (.fetch a :: later).findSome? (deniedAt s) = if s.readable a then later.findSome? (deniedAt s) else some a := by
  by_cases h : s.readable a = true <;> simp [deniedAt, h]

theorem findSome?_read_cons (s : State) (a : Addr) (later : List Access) :
    (.read a :: later).findSome? (deniedAt s) = if s.readable a then later.findSome? (deniedAt s) else some a :=
  findSome?_fetch_cons s a later

/-- Behind a readable opcode byte the operand bytes are read in order, and the first the map forbids stops the fetch (R53, R227). -/
theorem fetchOperands_of_byte_denied {s : State} {head : Head} {i : Instr} {a : Addr}
    (hd : decodeHead (s.byteAt s.pc) = some head) (built : head.Builds i) (pcReadable : s.readable s.pc = true)
    (first : (s.byteAccesses i.length).findSome? (deniedAt s) = some a) :
    s.fetchOperands head = .error (.unmappedAccess a) := by
  cases head with
  | f1 j =>
    obtain rfl := built
    rw [length_of_decodeHead_f1 hd, s.byteAccesses_one, findSome?_fetch_cons, if_pos pcReadable] at first
    cases first
  | f2 build =>
    obtain ⟨v, rfl⟩ := built
    rw [length_of_decodeHead_f2 hd, s.byteAccesses_two, findSome?_fetch_cons, if_pos pcReadable, findSome?_read_cons] at first
    rw [fetchOperands_f2]
    split at first <;> cases first
    next operand => exact if_neg operand
  | f3 build =>
    obtain ⟨t, rfl⟩ := built
    rw [length_of_decodeHead_f3 hd, s.byteAccesses_three, findSome?_fetch_cons, if_pos pcReadable, findSome?_read_cons,
      findSome?_read_cons] at first
    rw [fetchOperands_f3]
    split at first
    next low =>
      split at first <;> cases first
      next high => rw [if_pos low, if_neg high]
    next low =>
      cases first
      exact if_neg low

theorem fetch_of_byte_denied {s : State} {i : Instr} {rest : List Byte} {a : Addr} (running : s.halted = false)
    (dec : decode s.window = .ok (i, rest)) (first : (s.byteAccesses i.length).findSome? (deniedAt s) = some a) :
    s.fetch = .error (.unmappedAccess a) := by
  cases pcReadable : s.readable s.pc with
  | false =>
    have nonempty : 0 < i.length := by cases i <;> exact Nat.succ_pos _
    obtain ⟨n, long⟩ := Nat.exists_eq_add_one.mpr nonempty
    rw [long, State.byteAccesses, findSome?_fetch_cons, if_neg (ne_true_of_eq_false pcReadable)] at first
    cases first
    exact fetch_unreadable s running pcReadable
  | true =>
    obtain ⟨head, hd, built⟩ := builds_of_decode dec
    rw [fetch_readable s running pcReadable, hd]
    exact fetchOperands_of_byte_denied hd built pcReadable first

/-! ### Memory that is not RAM -/

/-- No byte is poked where the map does not allow a write. -/
theorem State.byteAt_poke_of_not_writable {s : State} {a b : Addr} (written : s.writable b = true)
    (denied : s.writable a = false) (v : Byte) : (s.poke b v).byteAt a = s.byteAt a := by
  have other : a ≠ b := by
    rintro rfl
    simp [written] at denied
  rw [State.byteAt_poke, if_neg other]

theorem exec_keeps_read_only {i : Instr} {s t : State} {a : Addr} (completes : exec i s = .next t)
    (denied : s.writable a = false) : t.byteAt a = s.byteAt a := by
  obtain ⟨_, ⟨_, _, _, _, rfl⟩, rfl⟩ | ⟨v, written, rfl⟩ | ⟨-, ⟨_, rfl⟩ | ⟨_, -, rfl⟩ | ⟨_, -, -, rfl⟩ | rfl⟩ :=
    exec_next_cases i s t completes
  case inr.inl => exact State.byteAt_poke_of_not_writable written denied v
  all_goals rfl

theorem runUnassigned_keeps_read_only {s t : State} {b : Byte} {a : Addr} (completes : s.runUnassigned b = .next t)
    (denied : s.writable a = false) : t.byteAt a = s.byteAt a := by
  obtain rfl | ⟨_, v, written, rfl⟩ := s.runUnassigned_next b t completes
  · rfl
  · exact State.byteAt_poke_of_not_writable (s := s.afterUnassigned b) written denied v

theorem step_keeps_read_only {s t : State} {a : Addr} (completes : step s = .next t) (denied : s.writable a = false) :
    t.byteAt a = s.byteAt a := by
  obtain ⟨_, -, ran⟩ | ⟨_, _, -, -, ran⟩ := step_next s t completes
  · exact exec_keeps_read_only ran denied
  · exact runUnassigned_keeps_read_only ran denied

/-- The map decides alone what may be written, and no step changes the map (R60). -/
theorem step_keeps_writable {s t : State} (completes : step s = .next t) (a : Addr) : t.writable a = s.writable a := by
  obtain ⟨map, -, -⟩ := stepKeepsTheParameters s t completes
  rw [State.writable, State.kind, map, State.writable, State.kind]

/-! ### A store and the fetch behind it -/

/-- The bytes the next fetch can read once `pc` has moved on (R29, R51). -/
theorem State.window_advance (s : State) (len : Nat) :
    (s.advance len).window =
      [s.byteAt (s.pc + BitVec.ofNat 14 (len + 0)), s.byteAt (s.pc + BitVec.ofNat 14 (len + 1)),
        s.byteAt (s.pc + BitVec.ofNat 14 (len + 2))] := by
  simp [State.window, BitVec.ofNat_add, BitVec.add_assoc]

/-! ### The statements -/

/-- Settles O45, by induction on the number of steps: each step keeps the byte, and keeps the address unwritable. -/
theorem readOnlyMemoryNeverChanges : Obligations.ReadOnlyMemoryNeverChanges := by
  intro n
  induction n with
  | zero =>
    rintro s _ a rfl -
    rfl
  | succ n ih =>
    rintro s t a ⟨u, first, others⟩ denied
    calc
      t.byteAt a = u.byteAt a := ih u t a others ((step_keeps_writable first a).trans denied)
      _ = s.byteAt a := step_keeps_read_only first denied

/-- Settles O13: a forbidden byte of the instruction stops the fetch; behind the fetch the meaning alone can meet a forbidden M. -/
theorem stepFaultsAtTheFirstForbiddenAccess : Obligations.StepFaultsAtTheFirstForbiddenAccess := by
  refine ⟨fun s running denied => step_of_unmapped s _ (fetch_unreadable s running denied), ?_⟩
  intro s i rest running dec
  rw [accesses_eq_append, List.findSome?_append]
  cases bytes : (s.byteAccesses i.length).findSome? (deniedAt s) with
  | some a => exact step_of_unmapped s a (fetch_of_byte_denied running dec bytes)
  | none =>
    have readable : s.BytesReadable i.length := (s.findSome?_byteAccesses_eq_none_iff _).mp bytes
    have ran : step s = exec i s := stepRunsTheDecodedInstruction s i rest running dec readable
    cases data : (dataAccesses i s).findSome? (deniedAt s) with
    | some a => exact ran.trans ((exec_eq_unmapped_iff i s a).mpr data)
    | none =>
      refine ⟨ran, fun a faults => ?_⟩
      rw [exec_eq_unmapped_iff, data] at faults
      cases faults

/-- Settles O19: the listed instructions are those with M as a source, and the two stores. -/
theorem forbiddenMemoryOperandFaults : Obligations.ForbiddenMemoryOperandFaults := by
  refine ⟨fun s dst i denied listed => ?_, fun s src v i denied listed => ?_⟩
  · have reads : ∀ j ∈ [.movRM dst, .addM, .adcM, .subM, .sbbM, .anaM, .oraM, .xraM, .cmpM], readsM j = true := by
      simp [readsM]
    exact exec_of_unreadable_M (reads i listed) denied
  · have stores : ∀ j ∈ [.movMR src, .mviM v], storesToM j = true := by
      simp [storesToM]
    exact exec_of_unwritable_M (stores i listed) denied

/-- Settles O55: the bytes `seen` are those of the state behind the store, which the next fetch reads. -/
theorem storeIsSeenByTheNextFetch : Obligations.StoreIsSeenByTheNextFetch := by
  intro s store i v len rest rest' form running dec ownBytes writable behind seen next nextBytes
  obtain ⟨rfl, completes⟩ := exec_store_of_writable form writable
  have stored : ∀ k, (s.poke s.maddr v).byteAt (behind k) = seen k := fun k => s.byteAt_poke s.maddr (behind k) v
  refine ⟨_, (stepRunsTheDecodedInstruction s store rest running dec ownBytes).trans completes, rfl, stored, ?_⟩
  refine stepRunsTheDecodedInstruction _ i rest' running ?_ fun k inside => ?_
  · rw [State.window_advance]
    change decode [(s.poke s.maddr v).byteAt (behind 0), (s.poke s.maddr v).byteAt (behind 1),
      (s.poke s.maddr v).byteAt (behind 2)] = _
    rw [stored, stored, stored, next]
  · change s.readable (s.pc + BitVec.ofNat 14 store.length + BitVec.ofNat 14 k) = true
    rw [BitVec.add_assoc, ← BitVec.ofNat_add]
    exact nextBytes k inside

/-- Settles O56: what may be written may be read, and neither the store nor the load moves M. -/
theorem storeThenLoadGivesTheByteStored : Obligations.StoreThenLoadGivesTheByteStored := by
  intro s src dst writable
  obtain ⟨-, stored⟩ := exec_store_of_writable (.inl ⟨src, rfl, rfl, rfl⟩) writable
  have loaded := exec_movRM_of_readable dst
    (s := (s.poke s.maddr (s.reg src)).advance 1) (s.readable_of_writable s.maddr writable)
  refine ⟨_, _, stored, loaded, ?_, rfl⟩
  exact (Regs.get_set_same _ _ _).trans (s.byteAt_poke_same s.maddr (s.reg src))

end Sys2Proof.Machine
end

section
/-! PROOFS. The encoding of the instruction set (30_encoding R70 to R96): the decoder as a relation between bytes and instructions,
the encoder as its inverse, the don't-care bits, the six unassigned bytes, and the two sets of mnemonics. -/

namespace Sys2Proof

/-! ### The decoder as a relation -/

/-- The operand bytes a format asks for, and the instruction they complete it to (R70, R74, R76). -/
def Head.Completes : Head → List Byte → Instr → Prop
  | .f1 j, operands, i => operands = [] ∧ i = j
  | .f2 build, operands, i => ∃ v, operands = [v] ∧ i = build v
  | .f3 build, operands, i => ∃ i1 i2, operands = [i1, i2] ∧ i = build (joinAddr i1 i2)

/-- What the decoder reads: an opcode byte with an entry in the map, and the operand bytes its format asks for (R80, R81). -/
theorem decode_eq_ok_iff (bytes rest : List Byte) (i : Instr) :
    decode bytes = .ok (i, rest) ↔
      ∃ b head operands, bytes = b :: (operands ++ rest) ∧ decodeHead b = some head ∧ head.Completes operands i := by
  constructor
  · intro dec
    cases bytes with
    | nil => cases dec
    | cons b after =>
      simp only [decode] at dec
      cases hd : decodeHead b with
      | none => simp [hd] at dec
      | some head =>
        simp only [hd] at dec
        cases head with
        | f1 j =>
          cases dec
          exact ⟨b, _, [], rfl, hd, rfl, rfl⟩
        | f2 build =>
          dsimp only at dec
          split at dec <;> cases dec
          exact ⟨b, _, [_], rfl, hd, _, rfl, rfl⟩
        | f3 build =>
          dsimp only at dec
          split at dec <;> cases dec
          exact ⟨b, _, [_, _], rfl, hd, _, _, rfl, rfl⟩
  · rintro ⟨b, head, operands, rfl, hd, completes⟩
    cases head with
    | f1 j =>
      obtain ⟨rfl, rfl⟩ := completes
      simp [decode, hd]
    | f2 build =>
      obtain ⟨v, rfl, rfl⟩ := completes
      simp [decode, hd]
    | f3 build =>
      obtain ⟨i1, i2, rfl, rfl⟩ := completes
      simp [decode, hd]

theorem decode_of_f1 {b : Byte} {i : Instr} (hd : decodeHead b = some (.f1 i)) (rest : List Byte) :
    decode (b :: rest) = .ok (i, rest) :=
  (decode_eq_ok_iff _ rest i).mpr ⟨b, _, [], rfl, hd, rfl, rfl⟩

theorem decode_of_f2 {b : Byte} {build : Byte → Instr} (hd : decodeHead b = some (.f2 build)) (v : Byte)
    (rest : List Byte) : decode (b :: v :: rest) = .ok (build v, rest) :=
  (decode_eq_ok_iff _ rest _).mpr ⟨b, _, [v], rfl, hd, v, rfl, rfl⟩

theorem decode_of_f3 {b : Byte} {build : Addr → Instr} (hd : decodeHead b = some (.f3 build)) (i1 i2 : Byte)
    (rest : List Byte) : decode (b :: i1 :: i2 :: rest) = .ok (build (joinAddr i1 i2), rest) :=
  (decode_eq_ok_iff _ rest _).mpr ⟨b, _, [i1, i2], rfl, hd, i1, i2, rfl, rfl⟩

/-- The decoder rejects an opcode byte by name exactly if the map has no entry for it (R85). -/
theorem decode_eq_unassigned_iff (b : Byte) (after : List Byte) :
    decode (b :: after) = .error (.unassigned b) ↔ decodeHead b = none := by
  simp only [decode]
  cases decodeHead b with
  | none => simp
  | some head =>
    cases head with
    | f1 i => simp
    | f2 build | f3 build =>
      dsimp only
      split <;> simp

/-! ### What was decoded, seen from its bytes -/

/-- With the don't-care bits cleared, the bytes of a decoded instruction are those the encoder writes (R88, D17). -/
theorem clearDontCares_of_completes {b : Byte} {head : Head} {operands : List Byte} {i : Instr}
    (hd : decodeHead b = some head) (completes : head.Completes operands i) :
    clearDontCares (b :: operands) = encode i := by
  have spec := decodeHead_spec b
  rw [HeadSpec, hd] at spec
  cases head with
  | f1 j =>
    obtain ⟨rfl, rfl⟩ := completes
    obtain ⟨-, -, -, -, enc⟩ := spec
    exact enc.symm
  | f2 build =>
    obtain ⟨v, rfl, rfl⟩ := completes
    obtain ⟨-, -, built⟩ := spec
    obtain ⟨-, -, enc, clear⟩ := built v
    exact clear.trans enc.symm
  | f3 build =>
    obtain ⟨i1, i2, rfl, rfl⟩ := completes
    obtain ⟨-, -, c, clear, built⟩ := spec
    obtain ⟨-, -, enc⟩ := built (joinAddr i1 i2)
    rw [clear, enc, addrBytes_joinAddr]

/-- The length rule of R81 counts the opcode byte and the operand bytes of its format. -/
theorem lengthOfOpcode_of_completes {b : Byte} {head : Head} {operands : List Byte} {i : Instr}
    (hd : decodeHead b = some head) (completes : head.Completes operands i) :
    lengthOfOpcode b = operands.length + 1 := by
  have spec := decodeHead_spec b
  rw [HeadSpec, hd] at spec
  cases head with
  | f1 j =>
    obtain ⟨rfl, -⟩ := completes
    exact spec.1
  | f2 build =>
    obtain ⟨v, rfl, -⟩ := completes
    exact spec.1
  | f3 build =>
    obtain ⟨i1, i2, rfl, -⟩ := completes
    exact spec.1

/-! ### The opcode map at the words the encoder writes -/

theorem decodeHead_opcode_zero (y z : BitVec 3) : decodeHead (opcode 0 y z) = decodeGroup0 y z := by
  simp [decodeHead]

theorem decodeHead_opcode_two (y z : BitVec 3) : decodeHead (opcode 2 y z) = some (decodeGroup2 y z) := by
  simp [decodeHead]

theorem decodeHead_opcode_three (y z : BitVec 3) : decodeHead (opcode 3 y z) = some (decodeGroup3 y z) := by
  simp [decodeHead]

theorem decodeHead_of_group1 {b : Byte} (group : fieldG b = 1) :
    decodeHead b = some (decodeGroup1 b (fieldY b) (fieldZ b)) := by
  rw [decodeHead, group]
  rfl

/-- Bit 0 of an opcode byte is bit 0 of its field z (R71). -/
theorem getLsbD_zero_opcode (g : BitVec 2) (y z : BitVec 3) : (opcode g y z).getLsbD 0 = z.getLsbD 0 := by
  revert g y z
  decide

/-- INC names every register but A (R110, R112). -/
theorem decodeHead_incR {r : Reg} (notA : r ≠ .a) : decodeHead (opcode 0 r.code 0) = some (.f1 (.incR r)) := by
  cases r with
  | a => exact absurd rfl notA
  | _ => rfl

/-- DCR names every register but A (R111, R112). -/
theorem decodeHead_dcrR {r : Reg} (notA : r ≠ .a) : decodeHead (opcode 0 r.code 1) = some (.f1 (.dcrR r)) := by
  cases r with
  | a => exact absurd rfl notA
  | _ => rfl

theorem decodeHead_mviR (r : Reg) : decodeHead (opcode 0 r.code 6) = some (.f2 (.mviR r)) := by
  rw [decodeHead_opcode_zero]
  simp [decodeGroup0]

theorem decodeHead_rst (n : BitVec 3) : decodeHead (opcode 0 n 5) = some (.f1 (.rst n)) :=
  decodeHead_opcode_zero n 5

/-- Bits 5:3 of RET are don't-care bits (R88). -/
theorem decodeHead_ret (x : BitVec 3) : decodeHead (opcode 0 x 7) = some (.f1 .ret) :=
  decodeHead_opcode_zero x 7

/-- Bits 5:3 of JMP are don't-care bits (R88). -/
theorem decodeHead_jmp (x : BitVec 3) : decodeHead (opcode 1 x 4) = some (.f3 .jmp) := by
  rw [decodeHead_of_group1 (fieldG_opcode 1 x 4), decodeGroup1, getLsbD_zero_opcode, fieldZ_opcode]
  rfl

/-- Bits 5:3 of CALL are don't-care bits (R88). -/
theorem decodeHead_call (x : BitVec 3) : decodeHead (opcode 1 x 6) = some (.f3 .call) := by
  rw [decodeHead_of_group1 (fieldG_opcode 1 x 6), decodeGroup1, getLsbD_zero_opcode, fieldZ_opcode]
  rfl

/-- In group 01 the even bytes are the jumps and calls, all of format F3 (R80, R83). -/
theorem decodeHead_of_group1_even {b : Byte} (group : fieldG b = 1) (even : b.getLsbD 0 = false) :
    ∃ build, decodeHead b = some (.f3 build) := by
  rw [decodeHead_of_group1 group, decodeGroup1, if_neg (ne_true_of_eq_false even)]
  dsimp only
  split <;> exact ⟨_, rfl⟩

/-- The word of IN: group 01, odd, RR = 00, the port in bits 3:1 (R200). -/
theorem decodeHead_inp (p : BitVec 3) :
    decodeHead ((2 : BitVec 3) ++ (0 : BitVec 1) ++ p ++ (1 : BitVec 1)) = some (.f1 (.inp p)) := by
  have fields : ∀ p : BitVec 3, let b : Byte := (2 : BitVec 3) ++ (0 : BitVec 1) ++ p ++ (1 : BitVec 1)
      fieldG b = 1 ∧ b.getLsbD 0 = true ∧ b.extractLsb' 4 2 = 0 ∧ b.extractLsb' 1 3 = p := by decide
  obtain ⟨group, odd, rr, port⟩ := fields p
  rw [decodeHead_of_group1 group, decodeGroup1, if_pos odd, if_pos rr, port]

/-- The word of OUT: group 01, odd, the port in bits 5:1, and RR not 00 (R202). -/
theorem decodeHead_out {p : BitVec 5} (high : 8 ≤ p.toNat) :
    decodeHead ((1 : BitVec 2) ++ p ++ (1 : BitVec 1)) = some (.f1 (.out p)) := by
  have fields : ∀ p : BitVec 5, 8 ≤ p.toNat → let b : Byte := (1 : BitVec 2) ++ p ++ (1 : BitVec 1)
      fieldG b = 1 ∧ b.getLsbD 0 = true ∧ b.extractLsb' 4 2 ≠ 0 ∧ b.extractLsb' 1 5 = p := by decide
  obtain ⟨group, odd, rr, port⟩ := fields p high
  rw [decodeHead_of_group1 group, decodeGroup1, if_pos odd, if_neg rr, port]

theorem decodeHead_movRR (dst src : Reg) : decodeHead (opcode 3 dst.code src.code) = some (.f1 (.movRR dst src)) := by
  rw [decodeHead_opcode_three, decodeGroup3, Reg.ofCode_code, Reg.ofCode_code]

theorem decodeHead_movRM (dst : Reg) : decodeHead (opcode 3 dst.code 7) = some (.f1 (.movRM dst)) := by
  rw [decodeHead_opcode_three, decodeGroup3, Reg.ofCode_code, Reg.ofCode_seven]

theorem decodeHead_movMR (src : Reg) : decodeHead (opcode 3 7 src.code) = some (.f1 (.movMR src)) := by
  rw [decodeHead_opcode_three, decodeGroup3, Reg.ofCode_code, Reg.ofCode_seven]

/-! ### The eight arithmetic and logic operations -/

/-- The operation code PPP (R73). -/
def AluOp.code : AluOp → BitVec 3
  | .add => 0
  | .adc => 1
  | .sub => 2
  | .sbb => 3
  | .ana => 4
  | .xra => 5
  | .ora => 6
  | .cmp => 7

@[simp] theorem AluOp.ofCode_code (op : AluOp) : AluOp.ofCode op.code = op := by cases op <;> rfl

theorem encode_regInstr (op : AluOp) (r : Reg) : encode (op.regInstr r) = [opcode 2 op.code r.code] := by
  cases op <;> rfl

theorem encode_memInstr (op : AluOp) : encode op.memInstr = [opcode 2 op.code 7] := by cases op <;> rfl

theorem encode_immInstr (op : AluOp) (v : Byte) : encode (op.immInstr v) = [opcode 0 op.code 4, v] := by
  cases op <;> rfl

theorem decode_encode_regInstr (op : AluOp) (r : Reg) (rest : List Byte) :
    decode (encode (op.regInstr r) ++ rest) = .ok (op.regInstr r, rest) := by
  rw [encode_regInstr]
  exact decode_of_f1 (by rw [decodeHead_opcode_two, decodeGroup2, Reg.ofCode_code, AluOp.ofCode_code]) rest

theorem decode_encode_memInstr (op : AluOp) (rest : List Byte) :
    decode (encode op.memInstr ++ rest) = .ok (op.memInstr, rest) := by
  rw [encode_memInstr]
  exact decode_of_f1 (by rw [decodeHead_opcode_two, decodeGroup2, Reg.ofCode_seven, AluOp.ofCode_code]) rest

theorem decode_encode_immInstr (op : AluOp) (v : Byte) (rest : List Byte) :
    decode (encode (op.immInstr v) ++ rest) = .ok (op.immInstr v, rest) := by
  rw [encode_immInstr]
  have group0 : decodeGroup0 op.code 4 = some (.f2 (AluOp.ofCode op.code).immInstr) := rfl
  exact decode_of_f2 (by rw [decodeHead_opcode_zero, group0, AluOp.ofCode_code]) v rest

/-! ### The round trip -/

/-- An address operand is read back as it was written (R50, R76). -/
theorem decode_addrBytes {b : Byte} {build : Addr → Instr} (hd : decodeHead b = some (.f3 build)) (t : Addr)
    (rest : List Byte) : decode (b :: addrBytes t ++ rest) = .ok (build t, rest) := by
  have read := decode_of_f3 hd (t.extractLsb' 0 8) ((0 : BitVec 2) ++ t.extractLsb' 8 6) rest
  rwa [joinAddr_addrBytes] at read

/-- Settles O1, by the entry of the opcode map at the word of each row (R80, R84). -/
theorem decodeOfEncodeIsTheInstruction : Obligations.DecodeOfEncodeIsTheInstruction := by
  intro i rest wf
  cases i with
  | movRR dst src => exact decode_of_f1 (decodeHead_movRR dst src) rest
  | movRM dst => exact decode_of_f1 (decodeHead_movRM dst) rest
  | mviR dst imm => exact decode_of_f2 (decodeHead_mviR dst) imm rest
  | movMR src => exact decode_of_f1 (decodeHead_movMR src) rest
  | mviM imm => exact decode_of_f2 rfl imm rest
  | incR r => exact decode_of_f1 (decodeHead_incR (bne_iff_ne.mp wf)) rest
  | dcrR r => exact decode_of_f1 (decodeHead_dcrR (bne_iff_ne.mp wf)) rest
  | rlc | rrc | ral | rar => exact decode_of_f1 rfl rest
  | addR r => exact decode_encode_regInstr .add r rest
  | adcR r => exact decode_encode_regInstr .adc r rest
  | subR r => exact decode_encode_regInstr .sub r rest
  | sbbR r => exact decode_encode_regInstr .sbb r rest
  | anaR r => exact decode_encode_regInstr .ana r rest
  | oraR r => exact decode_encode_regInstr .ora r rest
  | xraR r => exact decode_encode_regInstr .xra r rest
  | cmpR r => exact decode_encode_regInstr .cmp r rest
  | addM => exact decode_encode_memInstr .add rest
  | adcM => exact decode_encode_memInstr .adc rest
  | subM => exact decode_encode_memInstr .sub rest
  | sbbM => exact decode_encode_memInstr .sbb rest
  | anaM => exact decode_encode_memInstr .ana rest
  | oraM => exact decode_encode_memInstr .ora rest
  | xraM => exact decode_encode_memInstr .xra rest
  | cmpM => exact decode_encode_memInstr .cmp rest
  | adi imm => exact decode_encode_immInstr .add imm rest
  | aci imm => exact decode_encode_immInstr .adc imm rest
  | sui imm => exact decode_encode_immInstr .sub imm rest
  | sbi imm => exact decode_encode_immInstr .sbb imm rest
  | ani imm => exact decode_encode_immInstr .ana imm rest
  | ori imm => exact decode_encode_immInstr .ora imm rest
  | xri imm => exact decode_encode_immInstr .xra imm rest
  | cpi imm => exact decode_encode_immInstr .cmp imm rest
  | jmp t => exact decode_addrBytes (decodeHead_jmp 0) t rest
  | call t => exact decode_addrBytes (decodeHead_call 0) t rest
  | jf c t | jt c t | cf c t | ct c t => exact decode_addrBytes (by cases c <;> rfl) t rest
  | ret => exact decode_of_f1 (decodeHead_ret 0) rest
  | rf c | rt c => exact decode_of_f1 (by cases c <;> rfl) rest
  | rst n => exact decode_of_f1 (decodeHead_rst n) rest
  | inp p => exact decode_of_f1 (decodeHead_inp p) rest
  | out p => exact decode_of_f1 (decodeHead_out (of_decide_eq_true wf)) rest
  | hlt | hltFF | nop => exact decode_of_f1 rfl rest

/-! ### Don't-care bits -/

/-- Bits 7:6 of I2 are ignored, whatever they are (R76, R88). -/
theorem joinAddr_append_low (x : BitVec 2) (i1 i2 : Byte) : joinAddr i1 (x ++ i2.extractLsb' 0 6) = joinAddr i1 i2 := by
  have low : ∀ (x : BitVec 2) (v : BitVec 6), (x ++ v).extractLsb' 0 6 = v := by decide
  simp only [joinAddr, low]

/-- The encoder writes bits 7:6 of a third byte as 0 (R88, D17). -/
theorem third_byte_high_bits {i : Instr} {b i1 i2 : Byte} (enc : encode i = [b, i1, i2]) : i2.extractLsb' 6 2 = 0 := by
  have high : ∀ v : BitVec 6, ((0 : BitVec 2) ++ v).extractLsb' 6 2 = 0 := by decide
  cases i with
  | jmp t | call t | jf c t | jt c t | cf c t | ct c t =>
    cases enc
    exact high _
  | _ => cases enc

/-- Settles O2: the bytes used are the opcode byte and the operand bytes of its format. -/
theorem encodeOfDecodeIsTheBytesButDontCares : Obligations.EncodeOfDecodeIsTheBytesButDontCares := by
  intro bytes rest i dec
  obtain ⟨b, head, operands, read, hd, completes⟩ := (decode_eq_ok_iff bytes rest i).mp dec
  exact ⟨b :: operands, read, clearDontCares_of_completes hd completes⟩

/-- Settles O4, by the operand bytes each format asks for. -/
theorem opcodeByteAloneDecidesTheLength : Obligations.OpcodeByteAloneDecidesTheLength := by
  intro b after rest i dec
  obtain ⟨b', head, operands, read, hd, completes⟩ := (decode_eq_ok_iff _ rest i).mp dec
  obtain ⟨rfl, rfl⟩ := List.cons.inj read
  calc (b :: (operands ++ rest)).length = rest.length + (operands.length + 1) := by
        rw [List.length_cons, List.length_append]
        omega
    _ = rest.length + lengthOfOpcode b := by rw [lengthOfOpcode_of_completes hd completes]

/-- Settles O5, by the entries of the opcode map, which do not look at a don't-care bit. -/
theorem dontCareBitsAreIgnoredAndWrittenZero : Obligations.DontCareBitsAreIgnoredAndWrittenZero := by
  refine ⟨fun x i1 i2 rest => ⟨decode_of_f3 (decodeHead_jmp x) i1 i2 rest, decode_of_f3 (decodeHead_call x) i1 i2 rest,
      decode_of_f1 (decodeHead_ret x) rest⟩,
    fun rest => ⟨decode_of_f1 rfl rest, decode_of_f1 rfl rest, decode_of_f1 rfl rest⟩,
    fun _ => rfl, fun b i1 i2 x rest group even => ?_, fun _ => ⟨rfl, rfl⟩, rfl, rfl, fun _ _ _ _ => third_byte_high_bits⟩
  obtain ⟨build, hd⟩ := decodeHead_of_group1_even group even
  rw [decode_of_f3 hd, decode_of_f3 hd, joinAddr_append_low]

/-! ### The mnemonics -/

theorem Reg.length_append_letter (name : String) (r : Reg) : (name ++ r.letter).length = name.length + 1 := by
  rw [String.length_append]
  cases r <;> rfl

theorem Flag.length_append_letter (name : String) (c : Flag) : (name ++ c.letter).length = name.length + 1 := by
  rw [String.length_append]
  cases c <;> rfl

/-- Every row but NOP has a B mnemonic of three letters (R91, R92). -/
theorem nameB_length {i : Instr} (notNop : i ≠ .nop) : ∃ name, nameB i = some name ∧ name.length = 3 := by
  cases i with
  | nop => exact absurd rfl notNop
  | movRR dst src =>
    refine ⟨_, rfl, ?_⟩
    rw [Reg.length_append_letter, Reg.length_append_letter]
    rfl
  | movRM r | mviR r _ =>
    refine ⟨_, rfl, ?_⟩
    rw [String.length_append, Reg.length_append_letter]
    rfl
  | movMR r | incR r | dcrR r | addR r | adcR r | subR r | sbbR r | anaR r | oraR r | xraR r | cmpR r =>
    exact ⟨_, rfl, Reg.length_append_letter _ r⟩
  | jf c _ | jt c _ | cf c _ | ct c _ | rf c | rt c => exact ⟨_, rfl, Flag.length_append_letter _ c⟩
  | _ => exact ⟨_, rfl, rfl⟩

/-- Settles O9, row by row. -/
theorem notationBIsThreeLetters : Obligations.NotationBIsThreeLetters := by
  refine ⟨rfl, fun _ => nameB_length, ?_, fun r r2 v => ?_, ?_, fun r v => ?_, fun t => ?_, ?_, fun n p => ?_, rfl, rfl⟩
  all_goals and_intros <;> rfl

/-- An address operand whose two unused bits are 0 is written as the bytes I1, I2 it was made of (R76, R88). -/
theorem addrBytes_of_lt {i1 i2 : Byte} (low : i2.toNat < 64) : addrBytes (i2.extractLsb' 0 6 ++ i1) = [i1, i2] := by
  have clear : ∀ v : Byte, v.toNat < 64 → (0 : BitVec 2) ++ v.extractLsb' 0 6 = v := by decide
  exact (addrBytes_joinAddr i1 i2).trans (by rw [clear i2 low])

/-- Settles O10, row by row; the operand bytes are those behind the opcode byte. -/
theorem notationANamesAndOperands : Obligations.NotationANamesAndOperands := by
  refine ⟨fun r r2 v => ?_, ?_, fun r v => ?_, fun i1 i2 low => ?_, ?_, fun n p => ?_, ?_⟩
  case refine_4 =>
    rw [← addrBytes_of_lt low]
    and_intros <;> rfl
  all_goals and_intros <;> rfl

end Sys2Proof

namespace Sys2Proof.Machine

/-! ### The unassigned bytes -/

/-- Settles O6: the six bytes are those without an entry in the opcode map, and the opcode fetch comes first (R227). -/
theorem exactlySixOpcodeBytesAreIllegal : Obligations.ExactlySixOpcodeBytesAreIllegal := by
  refine ⟨fun b after => (decode_eq_unassigned_iff b after).trans (decodeHead_eq_none_iff b), rfl,
    fun s running six => ⟨fun denied => ?_, fun readable atFault => ?_⟩⟩
  · exact step_of_unmapped s s.pc (fetch_unreadable s running denied)
  · have unassigned := (decodeHead_eq_none_iff _).mpr six
    have fetched := (fetch_eq_illegal_iff s _ s.pc).mpr ⟨running, readable, rfl, rfl, unassigned⟩
    rw [step_of_illegal s _ s.pc fetched, State.unassignedByte, atFault]

end Sys2Proof.Machine
end

section
/-! PROOFS. Load and store (40_load R100 to R104): a row of the table of instructions from its entry in the opcode map, and what
the five instructions leave behind. -/

namespace Sys2Proof.Machine

/-! ### Rows of the table -/

theorem operands_length_le_two {head : Head} {operands : List Byte} {i : Instr} (completes : head.Completes operands i) :
    operands.length ≤ 2 := by
  cases head with
  | f1 j =>
    obtain ⟨rfl, -⟩ := completes
    simp
  | f2 build =>
    obtain ⟨v, rfl, -⟩ := completes
    simp
  | f3 build =>
    obtain ⟨i1, i2, rfl, -⟩ := completes
    simp

/-- An instruction is as long as the opcode byte and the operand bytes it was read from (R70). -/
theorem length_of_completes {b : Byte} {head : Head} {operands : List Byte} {i : Instr}
    (hd : decodeHead b = some head) (completes : head.Completes operands i) : i.length = (b :: operands).length := by
  cases head with
  | f1 j =>
    obtain ⟨rfl, rfl⟩ := completes
    exact length_of_decodeHead_f1 hd
  | f2 build =>
    obtain ⟨v, rfl, rfl⟩ := completes
    exact length_of_decodeHead_f2 hd v
  | f3 build =>
    obtain ⟨i1, i2, rfl, rfl⟩ := completes
    exact length_of_decodeHead_f3 hd _

theorem State.StandsAt.bytesReadable {s : State} {bytes : List Byte} (stands : s.StandsAt bytes) :
    s.BytesReadable bytes.length := by
  obtain ⟨-, bytesAt⟩ := stands
  intro k inside
  obtain ⟨readable, -⟩ := bytesAt k _ (List.getElem?_eq_getElem inside)
  exact readable

theorem State.window_getElem (s : State) (k : Nat) (inside : k < s.window.length) :
    s.window[k] = s.byteAt (s.pc + BitVec.ofNat 14 k) := by
  match k, inside with
  | 0, _ => exact congrArg s.byteAt (BitVec.add_zero s.pc).symm
  | 1, _ | 2, _ => rfl

/-- Up to three bytes that stand at `pc` are the first of those the next instruction can consist of (R51). -/
theorem State.StandsAt.window_eq_append {s : State} {bytes : List Byte} (stands : s.StandsAt bytes)
    (short : bytes.length ≤ 3) : s.window = bytes ++ s.window.drop bytes.length := by
  obtain ⟨-, bytesAt⟩ := stands
  have first : s.window.take bytes.length = bytes := by
    refine List.ext_getElem (List.length_take_of_le short) fun k _ inside => ?_
    obtain ⟨-, byte⟩ := bytesAt k _ (List.getElem?_eq_getElem inside)
    rw [List.getElem_take, State.window_getElem, byte]
  calc s.window = s.window.take bytes.length ++ s.window.drop bytes.length := (List.take_append_drop _ _).symm
    _ = bytes ++ s.window.drop bytes.length := by rw [first]

/-- An entry of the opcode map and the operand bytes its format asks for are a row: the decoder reads it off any bytes that begin
with these, and the step runs it (R10, R80). -/
theorem row_of_completes {b : Byte} {head : Head} {operands : List Byte} {i : Instr}
    (hd : decodeHead b = some head) (completes : head.Completes operands i) : Row (b :: operands) i (cycles i) := by
  have dec : ∀ rest, decode (b :: operands ++ rest) = .ok (i, rest) := fun rest =>
    (decode_eq_ok_iff _ rest i).mpr ⟨b, head, operands, rfl, hd, completes⟩
  refine ⟨dec, fun s stands => ?_, rfl⟩
  have ⟨running, _⟩ := stands
  have window := stands.window_eq_append (Nat.succ_le_succ (operands_length_le_two completes))
  have ownBytes := stands.bytesReadable
  rw [← length_of_completes hd completes] at ownBytes
  exact stepRunsTheDecodedInstruction s i _ running (window ▸ dec _) ownBytes

/-! ### What a load and a store leave behind -/

/-- A register written and `pc` moved on: the register holds the byte, and nothing else changes (R24). -/
theorem setReg_advance_frame (s : State) (dst : Reg) (v : Byte) (len : Nat) :
    ((s.setReg dst v).advance len).reg dst = v ∧ OtherRegsKept s ((s.setReg dst v).advance len) dst ∧
      (s.setReg dst v).advance len =
        { s with regs := ((s.setReg dst v).advance len).regs, pc := s.pc + BitVec.ofNat 14 len } :=
  ⟨Regs.get_set_same _ _ _, fun _ other => Regs.get_set_of_ne _ _ _ _ other, rfl⟩

/-- A cell overwritten and `pc` moved on: the cell reads the byte, every other cell as before (R61). -/
theorem storesTo_of_exec {i : Instr} {s : State} {a : Addr} {v : Byte} {len : Nat}
    (completes : exec i s = .next ((s.poke a v).advance len)) : StoresTo i s a v len :=
  ⟨_, completes, s.byteAt_poke_same a v, fun b other => (s.byteAt_poke a b v).trans (if_neg other), rfl⟩

/-! ### The statements -/

/-- Settles O15: both loads write the register and move `pc` on, whatever the state. -/
theorem loadsWriteOneRegisterOnly : Obligations.LoadsWriteOneRegisterOnly :=
  ⟨fun dst src => row_of_completes (decodeHead_movRR dst src) ⟨rfl, rfl⟩,
    fun dst v => row_of_completes (decodeHead_mviR dst) ⟨v, rfl, rfl⟩,
    fun dst src s => ⟨rfl, _, rfl, setReg_advance_frame s dst (s.reg src) 1⟩,
    fun dst v s => ⟨rfl, _, rfl, setReg_advance_frame s dst v 2⟩⟩

/-- Settles O16: the byte is read at the address of the state before, so a write to H or L comes too late to move it. -/
theorem loadFromMemoryReadsTheByteAtHL : Obligations.LoadFromMemoryReadsTheByteAtHL :=
  ⟨fun dst => row_of_completes (decodeHead_movRM dst) ⟨rfl, rfl⟩,
    fun dst s => ⟨rfl, fun readable =>
      ⟨_, exec_movRM_of_readable dst readable, setReg_advance_frame s dst (s.byteAt s.maddr) 1⟩⟩⟩

/-- Settles O17: where the map lets M be written, both stores overwrite that cell and move `pc` on. -/
theorem storesWriteOneByteAtTheAddressInHL : Obligations.StoresWriteOneByteAtTheAddressInHL := by
  refine ⟨fun src => row_of_completes (decodeHead_movMR src) ⟨rfl, rfl⟩,
    fun v => row_of_completes (head := .f2 .mviM) rfl ⟨v, rfl, rfl⟩,
    fun src s => ⟨rfl, fun writable => ?_⟩, fun v s => ⟨rfl, fun writable => ?_⟩⟩
  · obtain ⟨-, stored⟩ := exec_store_of_writable (.inl ⟨src, rfl, rfl, rfl⟩) writable
    exact storesTo_of_exec stored
  · obtain ⟨-, stored⟩ := exec_store_of_writable (.inr ⟨rfl, rfl⟩) writable
    exact storesTo_of_exec stored

end Sys2Proof.Machine
end

section
/-! PROOFS. Increment and decrement (41_incdec R110 to R112): the decoder builds no INC A and no DCR A, and what a counted register
leaves behind. -/

namespace Sys2Proof

/-- No opcode byte announces the second spelling of MOV A, A (R213). -/
theorem ne_nop_of_builds {b : Byte} {head : Head} {i : Instr} (hd : decodeHead b = some head)
    (built : head.Builds i) : i ≠ .nop := by
  have spec := decodeHead_spec b
  rw [HeadSpec, hd] at spec
  cases head with
  | f1 j =>
    obtain rfl := built
    obtain ⟨-, -, -, notNop, -⟩ := spec
    exact notNop
  | f2 build =>
    obtain ⟨v, rfl⟩ := built
    obtain ⟨-, -, all⟩ := spec
    obtain ⟨-, notNop, -⟩ := all v
    exact notNop
  | f3 build =>
    obtain ⟨t, rfl⟩ := built
    obtain ⟨-, -, c, -, all⟩ := spec
    obtain ⟨-, notNop, -⟩ := all t
    exact notNop

/-- Settles O3: both parts hold of whatever an entry of the opcode map can build. -/
theorem decodedInstructionIsWellFormed : Obligations.DecodedInstructionIsWellFormed := by
  intro bytes rest i dec
  cases bytes with
  | nil => cases dec
  | cons b after =>
    obtain ⟨head, hd, built⟩ := builds_of_decode dec
    exact ⟨wellFormed_of_builds hd built, ne_nop_of_builds hd built⟩

end Sys2Proof

namespace Sys2Proof.Machine

/-- A register counted to `v` and `pc` moved on: the register holds `v`, Z, S and P follow it (D7), Cy is kept, and nothing else
changes. -/
theorem counted_of_exec {i : Instr} {s : State} {r : Reg} {v : Byte} {n : Nat}
    (completes : exec i s = .next ((s.countTo r v).advance 1)) (value : v.toNat = n) :
    ∃ t, exec i s = .next t ∧ (t.reg r).toNat = n ∧ OtherRegsKept s t r ∧ ZspOf t.flags (t.reg r) ∧
      t.flag .cy = s.flag .cy ∧ t = { s with regs := t.regs, flags := t.flags, pc := s.pc + 1 } := by
  have written : ((s.countTo r v).advance 1).reg r = v := Regs.get_set_same s.regs r v
  refine ⟨_, completes, ?_, fun r' other => Regs.get_set_of_ne s.regs r r' v other, ?_,
    Flags.setZSP_get_cy s.flags v, rfl⟩
  · rw [written, value]
  · rw [written]
    exact zspOf_setZSP s.flags v

/-- Settles O20: both instructions count the register, to one more and to 255 more modulo 256. -/
theorem incrementAndDecrementKeepCarry : Obligations.IncrementAndDecrementKeepCarry := by
  intro r notA
  refine ⟨row_of_completes (decodeHead_incR notA) ⟨rfl, rfl⟩, row_of_completes (decodeHead_dcrR notA) ⟨rfl, rfl⟩,
    fun s => ⟨rfl, rfl, ?_, ?_⟩⟩
  · exact counted_of_exec rfl (BitVec.toNat_add (s.reg r) 1)
  · exact counted_of_exec rfl (BitVec.toNat_add (s.reg r) 255)

end Sys2Proof.Machine
end

section
/-! PROOFS. Rotates (42_rotate R120 to R124). Each rotate turns a ring of bits by one place: RLC and RRC the eight bits of A, RAL and
RAR the nine bits of A and Cy. A ring of `w` bits is back where it was after `w` turns. -/

namespace Sys2Proof.Machine

/-! ### One rotate, bit by bit -/

/-- Bits 0 to 6 moved up by one place, and a new bit 0. -/
def shiftUp (a : Byte) (low : Bool) : Byte := a.extractLsb' 0 7 ++ BitVec.ofBool low

/-- Bits 1 to 7 moved down by one place, and a new bit 7. -/
def shiftDown (a : Byte) (high : Bool) : Byte := BitVec.ofBool high ++ a.extractLsb' 1 7

theorem getLsbD_shiftUp (a : Byte) (low : Bool) (j : Nat) (inside : j < 8) :
    (shiftUp a low).getLsbD j = if j = 0 then low else a.getLsbD (j - 1) := by
  rw [shiftUp, BitVec.getLsbD_append, BitVec.getLsbD_extractLsb']
  cases j with
  | zero => simp
  | succ j =>
    have kept : j < 7 := by omega
    simp [kept]

theorem getLsbD_shiftDown (a : Byte) (high : Bool) (j : Nat) (inside : j < 8) :
    (shiftDown a high).getLsbD j = if j = 7 then high else a.getLsbD (j + 1) := by
  rw [shiftDown, BitVec.getLsbD_append, BitVec.getLsbD_extractLsb']
  by_cases top : j = 7
  · simp [top]
  · have kept : j < 7 := by omega
    simp [top, kept, Nat.add_comm]

theorem extractLsb'_one_eq_ofBool (a : Byte) (k : Nat) : a.extractLsb' k 1 = BitVec.ofBool (a.getLsbD k) := by
  refine BitVec.eq_of_getLsbD_eq fun j inside => ?_
  obtain rfl : j = 0 := by omega
  simp

/-! The four meanings in these words: `exec` unfolded (R120 to R123). -/

theorem exec_rlc (s : State) :
    exec .rlc s = .next ((s.rotate (shiftUp s.regs.a (s.regs.a.getLsbD 7)) (s.regs.a.getLsbD 7)).advance 1) := by
  rw [shiftUp, ← extractLsb'_one_eq_ofBool]
  rfl

theorem exec_rrc (s : State) :
    exec .rrc s = .next ((s.rotate (shiftDown s.regs.a (s.regs.a.getLsbD 0)) (s.regs.a.getLsbD 0)).advance 1) := by
  rw [shiftDown, ← extractLsb'_one_eq_ofBool]
  rfl

theorem exec_ral (s : State) :
    exec .ral s = .next ((s.rotate (shiftUp s.regs.a s.flags.cy) (s.regs.a.getLsbD 7)).advance 1) := rfl

theorem exec_rar (s : State) :
    exec .rar s = .next ((s.rotate (shiftDown s.regs.a s.flags.cy) (s.regs.a.getLsbD 0)).advance 1) := rfl

/-- A and Cy written and `pc` moved on: nothing else changes (R124). -/
theorem rotatesTo_of_exec {i : Instr} {s : State} {r : Byte} {bit : Nat → Bool} {carry : Bool}
    (completes : exec i s = .next ((s.rotate r carry).advance 1)) (bits : ∀ j, j < 8 → r.getLsbD j = bit j) :
    RotatesTo i s bit carry :=
  ⟨_, completes, bits, fun r' other => Regs.get_set_of_ne s.regs .a r' r other, rfl⟩

/-- Settles O21: RLC and RAL move A up, RRC and RAR move it down; they differ in the bit that comes in. -/
theorem rotatesMoveBitsAndWriteOnlyCarry : Obligations.RotatesMoveBitsAndWriteOnlyCarry :=
  ⟨row_of_completes (head := .f1 .rlc) rfl ⟨rfl, rfl⟩, row_of_completes (head := .f1 .rrc) rfl ⟨rfl, rfl⟩,
    row_of_completes (head := .f1 .ral) rfl ⟨rfl, rfl⟩, row_of_completes (head := .f1 .rar) rfl ⟨rfl, rfl⟩,
    fun s => ⟨rfl, rfl, rfl, rfl,
      rotatesTo_of_exec (exec_rlc s) (getLsbD_shiftUp _ _), rotatesTo_of_exec (exec_rrc s) (getLsbD_shiftDown _ _),
      rotatesTo_of_exec (exec_ral s) (getLsbD_shiftUp _ _), rotatesTo_of_exec (exec_rar s) (getLsbD_shiftDown _ _)⟩⟩

/-! ### A rotate as one turn of a ring -/

/-- The ring of RLC and RRC: the eight bits of A (R120, R121). -/
def State.accRing (s : State) (j : Fin 8) : Bool := s.regs.a.getLsbD j

/-- The ring of RAL and RAR: the eight bits of A, and Cy above them (R122, R123). -/
def State.carryRing (s : State) (j : Fin 9) : Bool := if j = Fin.last 8 then s.flags.cy else s.regs.a.getLsbD j

theorem State.carryRing_castSucc (s : State) (j : Fin 8) : s.carryRing j.castSucc = s.accRing j :=
  if_neg (Fin.castSucc_ne_last j)

theorem State.acc_eq_of_accRing_eq {s t : State} (same : s.accRing = t.accRing) : s.regs.a = t.regs.a :=
  BitVec.eq_of_getLsbD_eq fun j inside => congrFun same ⟨j, inside⟩

theorem State.acc_eq_of_carryRing_eq {s t : State} (same : s.carryRing = t.carryRing) : s.regs.a = t.regs.a := by
  refine State.acc_eq_of_accRing_eq (funext fun j => ?_)
  rw [← State.carryRing_castSucc, same, State.carryRing_castSucc]

/-- A moved up: every bit of it but the new one is the bit one place below. -/
theorem accRing_shiftUp_succ (s : State) (low carry : Bool) (j : Fin 7) :
    ((s.rotate (shiftUp s.regs.a low) carry).advance 1).accRing j.succ = s.accRing j.castSucc :=
  getLsbD_shiftUp s.regs.a low j.succ j.succ.isLt

/-- A moved down: every bit of it but the new one is the bit one place above. -/
theorem accRing_shiftDown_castSucc (s : State) (high carry : Bool) (j : Fin 7) :
    ((s.rotate (shiftDown s.regs.a high) carry).advance 1).accRing j.castSucc = s.accRing j.succ :=
  (getLsbD_shiftDown s.regs.a high j.castSucc j.castSucc.isLt).trans (if_neg j.isLt.ne)

theorem accRing_shiftUp_zero (s : State) (low carry : Bool) :
    ((s.rotate (shiftUp s.regs.a low) carry).advance 1).accRing 0 = low :=
  getLsbD_shiftUp s.regs.a low 0 (by decide)

theorem accRing_shiftDown_last (s : State) (high carry : Bool) :
    ((s.rotate (shiftDown s.regs.a high) carry).advance 1).accRing (Fin.last 7) = high :=
  getLsbD_shiftDown s.regs.a high 7 (by decide)

theorem succ_add_neg_one {n : Nat} (j : Fin (n + 1)) : j.succ + -1 = j.castSucc := by
  rw [← Fin.coeSucc_eq_succ, add_neg_cancel_right]

/-- In every state `i` completes as a rotate that turns the ring by `d` places, and Cy is then the bit at place `k` of it. -/
def TurnsRing {w : Nat} [NeZero w] (i : Instr) (ring : State → Fin w → Bool) (d k : Fin w) : Prop :=
  ∀ s : State, ∃ r c, exec i s = .next ((s.rotate r c).advance 1) ∧
    (∀ j, ring ((s.rotate r c).advance 1) j = ring s (j + d)) ∧ c = ring ((s.rotate r c).advance 1) k

/-- RLC moves each bit of A one place up, around the end; the bit that left is the new bit 0 and Cy (R120). -/
theorem rlc_turnsRing : TurnsRing .rlc State.accRing (-1) 0 := by
  refine fun s => ⟨_, _, exec_rlc s, fun j => ?_, (accRing_shiftUp_zero s _ _).symm⟩
  cases j using Fin.cases with
  | zero => exact accRing_shiftUp_zero s _ _
  | succ j => rw [accRing_shiftUp_succ, succ_add_neg_one]

/-- RRC moves each bit of A one place down, around the end; the bit that left is the new bit 7 and Cy (R121). -/
theorem rrc_turnsRing : TurnsRing .rrc State.accRing 1 (Fin.last 7) := by
  refine fun s => ⟨_, _, exec_rrc s, fun j => ?_, (accRing_shiftDown_last s _ _).symm⟩
  cases j using Fin.lastCases with
  | last => exact accRing_shiftDown_last s _ _
  | cast j => rw [accRing_shiftDown_castSucc, Fin.coeSucc_eq_succ]

/-- RAL moves each of the nine bits one place up, Cy into bit 0 and bit 7 into Cy (R122). -/
theorem ral_turnsRing : TurnsRing .ral State.carryRing (-1) (Fin.last 8) := by
  refine fun s => ⟨_, _, exec_ral s, fun j => ?_, rfl⟩
  cases j using Fin.lastCases with
  | last => rfl
  | cast j =>
    rw [State.carryRing_castSucc]
    cases j using Fin.cases with
    | zero => exact accRing_shiftUp_zero s _ _
    | succ j =>
      rw [accRing_shiftUp_succ, ← Fin.succ_castSucc, succ_add_neg_one, State.carryRing_castSucc]

/-- RAR moves each of the nine bits one place down, Cy into bit 7 and bit 0 into Cy (R123). -/
theorem rar_turnsRing : TurnsRing .rar State.carryRing 1 (Fin.last 8) := by
  refine fun s => ⟨_, _, exec_rar s, fun j => ?_, rfl⟩
  cases j using Fin.lastCases with
  | last => rfl
  | cast j =>
    rw [State.carryRing_castSucc, Fin.coeSucc_eq_succ]
    cases j using Fin.lastCases with
    | last => exact accRing_shiftDown_last s _ _
    | cast j => rw [accRing_shiftDown_castSucc, Fin.succ_castSucc, State.carryRing_castSucc]

/-! ### Turn after turn -/

/-- A rotate after rotates leaves behind what one rotate would have. -/
theorem State.rotate_advance_rotate_advance (s : State) (r r' : Byte) (c c' : Bool) (n : Nat) :
    (((s.rotate r c).advance n).rotate r' c').advance 1 = (s.rotate r' c').advance (n + 1) := by
  have pc : s.pc + BitVec.ofNat 14 n + BitVec.ofNat 14 1 = s.pc + BitVec.ofNat 14 (n + 1) := by
    rw [BitVec.add_assoc, BitVec.ofNat_add]
  simp only [State.advance, State.setPc, State.rotate, State.setReg, State.setCy, Regs.set, pc]

section
variable {w : Nat} [NeZero w] {i : Instr} {ring : State → Fin w → Bool} {d k : Fin w} {again : Result → Result}

/-- Rotates again and again add up to one rotate, which turns the ring by as many times `d`. -/
theorem TurnsRing.iterate (turns : TurnsRing i ring d k) (runs : ∀ t, again (.next t) = exec i t) (s : State) (n : Nat) :
    ∃ r c, again^[n + 1] (.next s) = .next ((s.rotate r c).advance (n + 1)) ∧
      (∀ j, ring ((s.rotate r c).advance (n + 1)) j = ring s (j + (n + 1) • d)) ∧
      c = ring ((s.rotate r c).advance (n + 1)) k := by
  induction n with
  | zero =>
    obtain ⟨r, c, completes, turned, carry⟩ := turns s
    exact ⟨r, c, (runs s).trans completes, by simpa using turned, carry⟩
  | succ n ih =>
    obtain ⟨r, c, ran, turned, -⟩ := ih
    obtain ⟨r', c', completes, once, carry⟩ := turns ((s.rotate r c).advance (n + 1))
    rw [State.rotate_advance_rotate_advance] at completes once carry
    refine ⟨r', c', ?_, fun j => ?_, carry⟩
    · rw [Function.iterate_succ_apply', ran, runs, completes]
    · rw [once, turned, add_assoc, succ_nsmul' d (n + 1)]

/-- Once the ring has been turned all the way round, A is as it was, and Cy holds the bit at its place. -/
theorem TurnsRing.iterate_full (turns : TurnsRing i ring d k) (runs : ∀ t, again (.next t) = exec i t) (s : State) {n : Nat}
    (full : (n + 1) • d = 0) (readsAcc : ∀ {u v : State}, ring u = ring v → u.regs.a = v.regs.a) :
    again^[n + 1] (.next s) = .next ((s.rotate s.regs.a (ring s k)).advance (n + 1)) := by
  obtain ⟨r, c, ran, turned, carry⟩ := turns.iterate runs s n
  have restored : ring ((s.rotate r c).advance (n + 1)) = ring s := funext fun j => by rw [turned, full, add_zero]
  have acc : r = s.regs.a := readsAcc restored
  rw [restored] at carry
  rw [ran, acc, carry]

end

/-- Settles O22: eight turns of the ring of A, and nine of the ring of A and Cy, are no turn. -/
theorem repeatedRotatesRestoreTheAccumulator : Obligations.RepeatedRotatesRestoreTheAccumulator := by
  intro s again
  have runs : ∀ i t, again i (.next t) = exec i t := fun _ _ => rfl
  exact
    ⟨⟨_, rlc_turnsRing.iterate_full (runs .rlc) s (by decide) State.acc_eq_of_accRing_eq, rfl⟩,
      ⟨_, rrc_turnsRing.iterate_full (runs .rrc) s (by decide) State.acc_eq_of_accRing_eq, rfl⟩,
      ⟨_, ral_turnsRing.iterate_full (runs .ral) s (by decide) State.acc_eq_of_carryRing_eq, rfl⟩,
      ⟨_, rar_turnsRing.iterate_full (runs .rar) s (by decide) State.acc_eq_of_carryRing_eq, rfl⟩⟩

end Sys2Proof.Machine
end

section
/-! PROOFS. Addition (43_add R130 to R137): the rows of the eight arithmetic and logic operations in their three forms, what an
addition leaves behind, and the laws of addition. -/

namespace Sys2Proof

/-! ### The opcode map at the eight operations -/

theorem decodeHead_regInstr (op : AluOp) (r : Reg) :
    decodeHead (opcode 2 op.code r.code) = some (.f1 (op.regInstr r)) := by
  rw [decodeHead_opcode_two, decodeGroup2, Reg.ofCode_code, AluOp.ofCode_code]

theorem decodeHead_memInstr (op : AluOp) : decodeHead (opcode 2 op.code 7) = some (.f1 op.memInstr) := by
  rw [decodeHead_opcode_two, decodeGroup2, Reg.ofCode_seven, AluOp.ofCode_code]

theorem decodeHead_immInstr (op : AluOp) : decodeHead (opcode 0 op.code 4) = some (.f2 op.immInstr) := by
  have group0 : decodeGroup0 op.code 4 = some (.f2 (AluOp.ofCode op.code).immInstr) := rfl
  rw [decodeHead_opcode_zero, group0, AluOp.ofCode_code]

end Sys2Proof

namespace Sys2Proof.Machine

/-- The register form 10 PPP SSS: one byte, read in one cycle (R73, R87). -/
theorem row_regInstr (op : AluOp) (r : Reg) : Row [opcode 2 op.code r.code] (op.regInstr r) [.pci] := by
  have tabled : cycles (op.regInstr r) = [.pci] := by cases op <;> rfl
  rw [← tabled]
  exact row_of_completes (decodeHead_regInstr op r) ⟨rfl, rfl⟩

/-- The M form 10 PPP 111: one byte, and a second cycle for M (R87). -/
theorem row_memInstr (op : AluOp) : Row [opcode 2 op.code 7] op.memInstr [.pci, .pcr] := by
  have tabled : cycles op.memInstr = [.pci, .pcr] := by cases op <;> rfl
  rw [← tabled]
  exact row_of_completes (decodeHead_memInstr op) ⟨rfl, rfl⟩

/-- The immediate form 00 PPP 100: two bytes, a cycle each (R82). -/
theorem row_immInstr (op : AluOp) (v : Byte) : Row [opcode 0 op.code 4, v] (op.immInstr v) [.pci, .pcr] := by
  have tabled : cycles (op.immInstr v) = [.pci, .pcr] := by cases op <;> rfl
  rw [← tabled]
  exact row_of_completes (decodeHead_immInstr op) ⟨v, rfl, rfl⟩

/-! ### What an addition leaves behind -/

/-- `add8` and `pc` moved on: A is the sum, the flags are those of the sum, and nothing else changes (R130). -/
theorem addsTo_of_exec {i : Instr} {s : State} {v : Byte} {cin : Bool} {len : Nat}
    (completes : exec i s = .next ((s.add8 v cin).advance len)) : AddsTo i s v cin len :=
  ⟨_, completes, addResult_toNat s.regs.a v cin, addCarry_iff s.regs.a v cin, zspOf_ofResult _ _,
    fun r' other => Regs.get_set_of_ne s.regs .a r' _ other, rfl⟩

theorem addsTo_adi (s : State) (v : Byte) : AddsTo (.adi v) s v false 2 := addsTo_of_exec rfl

theorem addsTo_aci (s : State) (v : Byte) : AddsTo (.aci v) s v (s.flag .cy) 2 := addsTo_of_exec rfl

/-- Settles O23: all six instructions run `add8`, the M forms where the map lets M be read. -/
theorem additionWritesSumAndAllFlags : Obligations.AdditionWritesSumAndAllFlags :=
  ⟨fun r v => ⟨row_regInstr .add r, row_regInstr .adc r, row_memInstr .add, row_memInstr .adc,
      row_immInstr .add v, row_immInstr .adc v⟩,
    fun _ v s => ⟨rfl, rfl, rfl, rfl, rfl, rfl, addsTo_of_exec rfl, addsTo_of_exec rfl, addsTo_adi s v, addsTo_aci s v,
      fun readable => ⟨addsTo_of_exec (State.withM_of_readable readable _),
        addsTo_of_exec (State.withM_of_readable readable _)⟩⟩⟩

/-! ### The laws of addition -/

theorem toNat_getLsbD_seven (x : Byte) : (x.getLsbD 7).toNat = x.toNat / 128 := by
  have inX := x.isLt
  rw [BitVec.getLsbD, Nat.toNat_testBit]
  omega

/-- Two bytes have one sign exactly if they stand in the same half of the unsigned range. -/
theorem getLsbD_seven_eq_iff (x y : Byte) : x.getLsbD 7 = y.getLsbD 7 ↔ x.toNat / 128 = y.toNat / 128 := by
  have injective : Function.Injective Bool.toNat := by decide
  rw [← injective.eq_iff, toNat_getLsbD_seven, toNat_getLsbD_seven]

/-- In two's complement bit 7 counts as -128 where it counts as 128 unsigned. -/
theorem toInt_eq_toNat_sub (x : Byte) : x.toInt = (x.toNat : Int) - 256 * (x.getLsbD 7).toNat := by
  have inX := x.isLt
  rw [toNat_getLsbD_seven, BitVec.toInt_eq_toNat_cond]
  split <;> omega

/-- Cy is the ninth bit of the sum (R137). -/
theorem AddsTo.unreduced_sum {i : Instr} {s t : State} {v : Byte} {cin : Bool} {len : Nat} (adds : AddsTo i s v cin len)
    (completes : exec i s = .next t) :
    256 * (t.flag .cy).toNat + (t.reg .a).toNat = (s.reg .a).toNat + v.toNat + cin.toNat := by
  obtain ⟨t', completes', sum, carry, -⟩ := adds
  obtain rfl : t' = t := Host.Outcome.next.inj (completes'.symm.trans completes)
  have inA := (s.reg .a).isLt
  have inV := v.isLt
  have inC := cin.toNat_le
  cases cy : t'.flag .cy with
  | false =>
    have small := carry.not.mp (ne_true_of_eq_false cy)
    rw [Bool.toNat_false]
    omega
  | true =>
    have large := carry.mp cy
    rw [Bool.toNat_true]
    omega

/-- The signed reading of a sum is wrong exactly if the operands have one sign and the sum the other (R137): it is right where the
ninth bit and bit 7 of the sum count together what the two bits 7 of the operands do. -/
theorem toInt_ne_add_iff {a v sum : Byte} {cin cy : Bool}
    (unreduced : 256 * cy.toNat + sum.toNat = a.toNat + v.toNat + cin.toNat) :
    sum.toInt ≠ a.toInt + v.toInt + (cin.toNat : Int) ↔ a.getLsbD 7 = v.getLsbD 7 ∧ sum.getLsbD 7 ≠ a.getLsbD 7 := by
  have right_iff : sum.toInt = a.toInt + v.toInt + (cin.toNat : Int) ↔
      cy.toNat + (sum.getLsbD 7).toNat = (a.getLsbD 7).toNat + (v.getLsbD 7).toNat := by
    rw [toInt_eq_toNat_sub, toInt_eq_toNat_sub, toInt_eq_toNat_sub]
    omega
  have inA := a.isLt
  have inV := v.isLt
  have inSum := sum.isLt
  have inC := cin.toNat_le
  rw [ne_eq, right_iff, ne_eq, getLsbD_seven_eq_iff, getLsbD_seven_eq_iff]
  simp only [toNat_getLsbD_seven]
  omega

/-- Settles O28: both laws hold of whatever adds as R130 says. -/
theorem additionLaw : Obligations.AdditionLaw := by
  refine fun s t v => ⟨fun completes => ?_, fun completes => ?_⟩
  · have unreduced := (addsTo_adi s v).unreduced_sum completes
    exact ⟨unreduced, by simpa using toInt_ne_add_iff unreduced⟩
  · have unreduced := (addsTo_aci s v).unreduced_sum completes
    exact ⟨unreduced, toInt_ne_add_iff unreduced⟩

end Sys2Proof.Machine
end

section
/-! PROOFS. Subtraction (44_sub R140 to R147): what a subtraction leaves behind, the laws of subtraction, and the two instructions
that clear the accumulator (R253). -/

namespace Sys2Proof.Machine

/-! ### What a subtraction leaves behind -/

/-- `sub8` with its write to A, and `pc` moved on: A is the difference, the flags are those of the difference with the borrow in Cy,
and nothing else changes (R140). -/
theorem subtractsTo_of_exec {i : Instr} {s : State} {v : Byte} {bin : Bool} {len : Nat}
    (completes : exec i s = .next ((s.sub8 v bin true).advance len)) : SubtractsTo i s v bin len :=
  ⟨_, completes, subResult_toNat s.regs.a v bin, subBorrow_iff s.regs.a v bin, zspOf_ofResult _ _,
    fun r' other => Regs.get_set_of_ne s.regs .a r' _ other, rfl⟩

theorem subtractsTo_sui (s : State) (v : Byte) : SubtractsTo (.sui v) s v false 2 := subtractsTo_of_exec rfl

theorem subtractsTo_sbi (s : State) (v : Byte) : SubtractsTo (.sbi v) s v (s.flag .cy) 2 := subtractsTo_of_exec rfl

/-- Settles O24: all six instructions run `sub8`, the M forms where the map lets M be read. -/
theorem subtractionWritesDifferenceAndBorrow : Obligations.SubtractionWritesDifferenceAndBorrow :=
  ⟨fun r v => ⟨row_regInstr .sub r, row_regInstr .sbb r, row_memInstr .sub, row_memInstr .sbb,
      row_immInstr .sub v, row_immInstr .sbb v⟩,
    fun _ v s => ⟨rfl, rfl, rfl, rfl, rfl, rfl, subtractsTo_of_exec rfl, subtractsTo_of_exec rfl,
      subtractsTo_sui s v, subtractsTo_sbi s v,
      fun readable => ⟨subtractsTo_of_exec (State.withM_of_readable readable _),
        subtractsTo_of_exec (State.withM_of_readable readable _)⟩⟩⟩

/-! ### The laws of subtraction -/

/-- Cy counts the 256 that the reduction added to a negative difference (R147). -/
theorem SubtractsTo.unreduced_difference {i : Instr} {s t : State} {v : Byte} {bin : Bool} {len : Nat}
    (subtracts : SubtractsTo i s v bin len) (completes : exec i s = .next t) :
    ((t.reg .a).toNat : Int) - 256 * (t.flag .cy).toNat = ((s.reg .a).toNat : Int) - v.toNat - bin.toNat := by
  obtain ⟨t', completes', difference, borrow, -⟩ := subtracts
  obtain rfl : t' = t := Host.Outcome.next.inj (completes'.symm.trans completes)
  have inA := (s.reg .a).isLt
  have inV := v.isLt
  have inB := bin.toNat_le
  cases cy : t'.flag .cy with
  | false =>
    have enough := borrow.not.mp (ne_true_of_eq_false cy)
    rw [Bool.toNat_false]
    omega
  | true =>
    have less := borrow.mp cy
    rw [Bool.toNat_true]
    omega

/-- A difference is the 9-bit sum with the one's complement of the operand, borrow-in and carry-out inverted (R147): both sides of
the exact difference grow by 256. -/
theorem complement_sum_of_difference {a v diff : Byte} {bin cy : Bool}
    (unreduced : (diff.toNat : Int) - 256 * cy.toNat = (a.toNat : Int) - v.toNat - bin.toNat) :
    256 * (!cy).toNat + diff.toNat = a.toNat + (255 - v.toNat) + (!bin).toNat := by
  have inverted : ∀ b : Bool, ((!b).toNat : Int) = 1 - b.toNat := by decide
  have invertedBin := inverted bin
  have invertedCy := inverted cy
  have inV := v.isLt
  omega

/-- Settles O29: both laws hold of whatever subtracts as R140 says. -/
theorem subtractionLaw : Obligations.SubtractionLaw := by
  refine fun s t v => ⟨fun completes => ?_, fun completes => ?_⟩
  · have unreduced := (subtractsTo_sui s v).unreduced_difference completes
    exact ⟨by simpa using unreduced, complement_sum_of_difference unreduced⟩
  · have unreduced := (subtractsTo_sbi s v).unreduced_difference completes
    exact ⟨unreduced, complement_sum_of_difference unreduced⟩

/-! ### Clearing the accumulator -/

/-- A byte less itself is 0, without a borrow: SUB A leaves what a logic instruction with the result 0 leaves (R141, R150). -/
theorem State.sub8_acc (s : State) : s.sub8 s.regs.a false true = s.logic8 0 := by
  have result : subResult s.regs.a s.regs.a false = 0 := by simp [subResult]
  have borrow : subBorrow s.regs.a s.regs.a false = false := by simp [subBorrow]
  rw [State.sub8, result, borrow]
  rfl

/-- XRA A and SUB A do the same: the logic result 0 (R141, R157). -/
theorem exec_clearAcc {i : Instr} (clears : i = .xraR .a ∨ i = .subR .a) (s : State) :
    exec i s = .next ((s.logic8 0).advance 1) := by
  obtain rfl | rfl := clears
  · calc exec (.xraR .a) s = .next ((s.logic8 (s.regs.a ^^^ s.regs.a)).advance 1) := rfl
      _ = .next ((s.logic8 0).advance 1) := by rw [BitVec.xor_self, BitVec.ofNat_eq_ofNat]
  · calc exec (.subR .a) s = .next ((s.sub8 s.regs.a false true).advance 1) := rfl
      _ = .next ((s.logic8 0).advance 1) := by rw [State.sub8_acc]

/-- Settles O30: A and the flags are those of the result 0 with Cy cleared, and nothing of the state before enters them. -/
theorem clearingTheAccumulatorFromAnyState : Obligations.ClearingTheAccumulatorFromAnyState :=
  fun s _ clears => ⟨_, exec_clearAcc clears s, rfl, rfl, rfl, rfl, rfl⟩

end Sys2Proof.Machine
end

section
/-! PROOFS. Logic (45_logic R150 to R160): what a logic instruction leaves behind, for each of the three operators. -/

namespace Sys2Proof.Machine

/-- `logic8` and `pc` moved on: A is the result, Cy is 0, Z, S and P are those of the result, and nothing else changes (R150). -/
theorem combinesTo_of_exec {op : Bool → Bool → Bool} {i : Instr} {s : State} {r v : Byte} {len : Nat}
    (bits : ∀ j, r.getLsbD j = op (s.regs.a.getLsbD j) (v.getLsbD j))
    (completes : exec i s = .next ((s.logic8 r).advance len)) : CombinesTo op i s v len :=
  ⟨_, completes, fun j _ => bits j, rfl, zspOf_ofResult false r,
    fun r' other => Regs.get_set_of_ne s.regs .a r' r other, rfl⟩

/-! The three operators of R160, on bytes and on their bits. -/

theorem combinesTo_and_of_exec {i : Instr} {s : State} {v : Byte} {len : Nat}
    (completes : exec i s = .next ((s.logic8 (s.regs.a &&& v)).advance len)) : CombinesTo and i s v len :=
  combinesTo_of_exec (fun _ => BitVec.getLsbD_and) completes

theorem combinesTo_or_of_exec {i : Instr} {s : State} {v : Byte} {len : Nat}
    (completes : exec i s = .next ((s.logic8 (s.regs.a ||| v)).advance len)) : CombinesTo or i s v len :=
  combinesTo_of_exec (fun _ => BitVec.getLsbD_or) completes

theorem combinesTo_xor_of_exec {i : Instr} {s : State} {v : Byte} {len : Nat}
    (completes : exec i s = .next ((s.logic8 (s.regs.a ^^^ v)).advance len)) : CombinesTo xor i s v len :=
  combinesTo_of_exec (fun _ => BitVec.getLsbD_xor) completes

/-- Settles O25: all nine instructions run `logic8` with their operator, the M forms where the map lets M be read. -/
theorem logicCombinesBitsAndClearsCarry : Obligations.LogicCombinesBitsAndClearsCarry := by
  refine ⟨fun r v => ⟨row_regInstr .ana r, row_memInstr .ana, row_immInstr .ana v,
      row_regInstr .ora r, row_memInstr .ora, row_immInstr .ora v,
      row_regInstr .xra r, row_memInstr .xra, row_immInstr .xra v⟩,
    fun r v s => ⟨rfl, rfl, rfl, rfl, rfl, rfl, rfl, rfl, rfl,
      combinesTo_and_of_exec rfl, combinesTo_and_of_exec rfl, combinesTo_or_of_exec rfl, combinesTo_or_of_exec rfl,
      combinesTo_xor_of_exec rfl, combinesTo_xor_of_exec rfl, fun readable => ⟨?_, ?_, ?_⟩⟩⟩
  · exact combinesTo_and_of_exec (State.withM_of_readable readable _)
  · exact combinesTo_or_of_exec (State.withM_of_readable readable _)
  · exact combinesTo_xor_of_exec (State.withM_of_readable readable _)

end Sys2Proof.Machine
end

section
/-! PROOFS. Compare (46_compare R165 to R169): what a compare leaves behind, and the reading of its flags as an order. -/

namespace Sys2Proof.Machine

/-! ### What a compare leaves behind -/

/-- `compare8` and `pc` moved on: the flags are those of the difference with the borrow in Cy, and nothing else changes, as `sub8`
writes no A here (R165). -/
theorem comparesTo_of_exec {i : Instr} {s : State} {v : Byte} {len : Nat}
    (completes : exec i s = .next ((s.compare8 v).advance len)) : ComparesTo i s v len :=
  ⟨_, subResult (s.reg .a) v false, completes, by simpa using subResult_toNat (s.reg .a) v false,
    subBorrow_iff s.regs.a v false, zspOf_ofResult _ _, rfl⟩

theorem comparesTo_cmpR (s : State) (r : Reg) : ComparesTo (.cmpR r) s (s.reg r) 1 := comparesTo_of_exec rfl

theorem comparesTo_cmpM {s : State} (readable : s.readable s.maddr = true) : ComparesTo .cmpM s (s.byteAt s.maddr) 1 :=
  comparesTo_of_exec (State.withM_of_readable readable _)

theorem comparesTo_cpi (s : State) (v : Byte) : ComparesTo (.cpi v) s v 2 := comparesTo_of_exec rfl

/-- Settles O26: all three instructions run `compare8`, the M form where the map lets M be read. -/
theorem compareWritesFlagsAndKeepsTheAccumulator : Obligations.CompareWritesFlagsAndKeepsTheAccumulator :=
  ⟨fun r v => ⟨row_regInstr .cmp r, row_memInstr .cmp, row_immInstr .cmp v⟩,
    fun r v s => ⟨rfl, rfl, rfl, comparesTo_cmpR s r, comparesTo_cpi s v, comparesTo_cmpM⟩⟩

/-! ### The outcome table -/

/-- The remainder of the exact difference is the 8-bit difference (R140). -/
theorem eq_sub_of_toNat_eq_emod {d a v : Byte} (remainder : (d.toNat : Int) = ((a.toNat : Int) - v.toNat) % 256) :
    d = a - v := by
  have inV := v.isLt
  apply BitVec.eq_of_toNat_eq
  rw [BitVec.toNat_sub]
  omega

theorem getLsbD_seven_iff (x : Byte) : x.getLsbD 7 = true ↔ 128 ≤ x.toNat := by
  have inX := x.isLt
  rw [← Bool.toNat_eq_one, toNat_getLsbD_seven]
  omega

/-- A compare of A with `v` that completes leaves the borrow in Cy, and Z, S and P of the 8-bit difference (R165). -/
theorem ComparesTo.flags_of_completes {i : Instr} {s t : State} {v : Byte} {len : Nat} (compares : ComparesTo i s v len)
    (completes : exec i s = .next t) :
    (t.flag .cy = true ↔ (s.reg .a).toNat < v.toNat) ∧ ZspOf t.flags (s.reg .a - v) := by
  obtain ⟨t', d, completes', difference, borrow, zsp, -⟩ := compares
  obtain rfl : t' = t := Host.Outcome.next.inj (completes'.symm.trans completes)
  rw [← eq_sub_of_toNat_eq_emod difference]
  exact ⟨borrow, zsp⟩

/-- Each of the three forms, once it completes, has compared A with its operand: CMP M completes only where M is readable. -/
theorem exists_comparesTo_of_completes {i : Instr} {s t : State} {v : Byte}
    (form : (∃ r, i = .cmpR r ∧ v = s.reg r) ∨ (i = .cmpM ∧ v = s.byteAt s.maddr) ∨ i = .cpi v)
    (completes : exec i s = .next t) : ∃ len, ComparesTo i s v len := by
  obtain ⟨r, rfl, rfl⟩ | ⟨rfl, rfl⟩ | rfl := form
  · exact ⟨1, comparesTo_cmpR s r⟩
  · obtain ⟨readable, -⟩ := s.withM_next _ t completes
    exact ⟨1, comparesTo_cmpM readable⟩
  · exact ⟨2, comparesTo_cpi s v⟩

/-- Settles O27: with "less" in Cy and "equal" in Z, the trichotomy of the unsigned order leaves "greater" to both 0. -/
theorem compareOutcomeTable : Obligations.CompareOutcomeTable := by
  intro s t i v form completes
  obtain ⟨len, compares⟩ := exists_comparesTo_of_completes form completes
  obtain ⟨less, zero, sign, parity⟩ := compares.flags_of_completes completes
  have equal : t.flag .z = true ↔ s.reg .a = v := zero.trans sub_eq_zero
  have equal_toNat : t.flag .z = true ↔ (s.reg .a).toNat = v.toNat := equal.trans BitVec.toNat_inj.symm
  refine ⟨?greater, equal, less, ?lessNotEqual, sign.trans (getLsbD_seven_iff _), parity⟩
  case greater =>
    rw [← Bool.not_eq_true, ← Bool.not_eq_true, less, equal_toNat]
    omega
  case lessNotEqual =>
    rw [← Bool.not_eq_true, less, equal_toNat]
    omega

end Sys2Proof.Machine
end

section
/-! PROOFS. Control transfer (47_control R175 to R192): a condition as the value of its flag, and what a call and a return do, taken
or not, with the address stack full, empty or neither. -/

namespace Sys2Proof

/-! ### The opcode map at the conditional transfers -/

/-- The sense bit and the flag address of a conditional jump (R176, R177, R192). -/
theorem decodeHead_condJump (sense : Bool) (c : Flag) :
    decodeHead (condOpcode 1 (BitVec.ofBool sense) c 0) = some (.f3 (if sense then .jt c else .jf c)) := by
  cases sense <;> cases c <;> rfl

/-- The sense bit and the flag address of a conditional call (R181, R182, R192). -/
theorem decodeHead_condCall (sense : Bool) (c : Flag) :
    decodeHead (condOpcode 1 (BitVec.ofBool sense) c 2) = some (.f3 (if sense then .ct c else .cf c)) := by
  cases sense <;> cases c <;> rfl

/-- The sense bit and the flag address of a conditional return (R186, R187, R192). -/
theorem decodeHead_condReturn (sense : Bool) (c : Flag) :
    decodeHead (condOpcode 0 (BitVec.ofBool sense) c 3) = some (.f1 (if sense then .rt c else .rf c)) := by
  cases sense <;> cases c <;> rfl

end Sys2Proof

namespace Sys2Proof.Machine

/-! ### Conditions -/

/-- A choice by a condition is a choice by the value of the flag (R192). -/
theorem State.ite_taken {α : Type} (s : State) (c : Flag) (sense : Bool) (x y : α) :
    (if s.taken c sense then x else y) = if s.flag c = sense then x else y := by
  simp only [State.taken, beq_iff_eq]

theorem State.ite_taken_of_eq {α : Type} {s : State} {c : Flag} {sense : Bool} (holds : s.flag c = sense) (x y : α) :
    (if s.taken c sense then x else y) = x :=
  if_pos (beq_iff_eq.mpr holds)

theorem State.ite_taken_of_ne {α : Type} {s : State} {c : Flag} {sense : Bool} (fails : s.flag c ≠ sense) (x y : α) :
    (if s.taken c sense then x else y) = y :=
  if_neg (mt beq_iff_eq.mp fails)

/-- A conditional jump is a choice of the address that goes to `pc` (R176, R177). -/
theorem State.next_jump_eq (s : State) (c : Flag) (sense : Bool) (target : Addr) :
    (if s.taken c sense then .next (s.setPc target) else .next (s.advance 3) : Result) =
      .next { s with pc := if s.flag c = sense then target else s.pc + 3 } := by
  rw [State.ite_taken]
  split <;> rfl

/-! ### Calls and returns -/

section
variable {i : Instr} {s : State} {len : Nat} {target : Addr}

/-- A push with room on the stack writes the entry the pointer named and no other (R37, R180). -/
theorem callsTo_of_exec (ran : exec i s = s.callTo len target) (room : s.stp < s.stack.length) :
    CallsTo i s (s.pc + BitVec.ofNat 14 len) target := by
  obtain ⟨-, e⟩ | ⟨full, -⟩ := s.callTo_eq len target
  · exact ⟨_, ran.trans e, List.getElem?_set_self room, fun _ other => List.getElem?_set_ne other.symm, rfl⟩
  · exact absurd room (Nat.not_lt.mpr full)

/-- A push on a full stack overflows (R37, D3). -/
theorem exec_eq_overflow (ran : exec i s = s.callTo len target) (full : s.stp = s.stack.length) :
    exec i s = .fault (.stackOverflow s.pc) := by
  obtain ⟨room, -⟩ | ⟨-, e⟩ := s.callTo_eq len target
  · exact absurd full (Nat.ne_of_lt room)
  · exact ran.trans e

/-- A pop of a held address goes to the entry below the pointer (R37, R185). -/
theorem returnsIn_of_exec (ran : exec i s = s.returnFrom) (held : 0 < s.stp) (inRange : s.stp ≤ s.stack.length) :
    ReturnsIn i s := by
  obtain ⟨v, -, entry, e⟩ | ⟨noEntry, -⟩ := s.returnFrom_eq
  · exact ⟨v, entry, ran.trans e⟩
  · omega

/-- A pop with none held underflows (R37, D3). -/
theorem exec_eq_underflow (ran : exec i s = s.returnFrom) (empty : s.stp = 0) :
    exec i s = .fault (.stackUnderflow s.pc) := by
  obtain ⟨_, held, -, -⟩ | ⟨-, e⟩ := s.returnFrom_eq
  · exact absurd empty (Nat.ne_of_gt held)
  · exact ran.trans e

end

/-- The restart target is 8 * AAA (R77). -/
theorem restartAddr_eq (n : BitVec 3) : restartAddr n = BitVec.ofNat 14 (8 * n.toNat) := by
  revert n
  decide

/-! ### The statements -/

/-- Settles O31: a jump, taken or not, writes `pc` and nothing else. -/
theorem jumpsGoToTargetOrPast : Obligations.JumpsGoToTargetOrPast :=
  ⟨fun x i1 i2 => row_of_completes (decodeHead_jmp x) ⟨i1, i2, rfl, rfl⟩,
    fun c i1 i2 => ⟨row_of_completes (decodeHead_condJump false c) ⟨i1, i2, rfl, rfl⟩,
      row_of_completes (decodeHead_condJump true c) ⟨i1, i2, rfl, rfl⟩⟩,
    fun c target s => ⟨rfl, s.ite_taken c false 11 9, s.ite_taken c true 11 9, rfl,
      s.next_jump_eq c false target, s.next_jump_eq c true target⟩⟩

/-- Settles O32: a call that is taken is `callTo`, which pushes or overflows; one that is not moves on. -/
theorem callsPushTheReturnAddress : Obligations.CallsPushTheReturnAddress := by
  refine ⟨fun x i1 i2 => row_of_completes (decodeHead_call x) ⟨i1, i2, rfl, rfl⟩,
    fun c i1 i2 => ⟨row_of_completes (decodeHead_condCall false c) ⟨i1, i2, rfl, rfl⟩,
      row_of_completes (decodeHead_condCall true c) ⟨i1, i2, rfl, rfl⟩⟩,
    fun c target s => ?_⟩
  have call : exec (.call target) s = s.callTo 3 target := rfl
  have cf (zero : s.flag c = false) : exec (.cf c target) s = s.callTo 3 target := State.ite_taken_of_eq zero _ _
  have ct (one : s.flag c = true) : exec (.ct c target) s = s.callTo 3 target := State.ite_taken_of_eq one _ _
  exact ⟨rfl, s.ite_taken c false 11 9, s.ite_taken c true 11 9,
    fun room => ⟨callsTo_of_exec call room, fun zero => callsTo_of_exec (cf zero) room,
      fun one => callsTo_of_exec (ct one) room⟩,
    fun one => State.ite_taken_of_ne (ne_false_of_eq_true one) _ _,
    fun zero => State.ite_taken_of_ne (ne_true_of_eq_false zero) _ _,
    fun full => ⟨exec_eq_overflow call full, fun zero => exec_eq_overflow (cf zero) full,
      fun one => exec_eq_overflow (ct one) full⟩⟩

/-- Settles O33: a return that is taken is `returnFrom`, which pops or underflows; one that is not moves on. -/
theorem returnsPopTheReturnAddress : Obligations.ReturnsPopTheReturnAddress := by
  refine ⟨fun x => row_of_completes (decodeHead_ret x) ⟨rfl, rfl⟩,
    fun c => ⟨row_of_completes (decodeHead_condReturn false c) ⟨rfl, rfl⟩,
      row_of_completes (decodeHead_condReturn true c) ⟨rfl, rfl⟩⟩,
    fun c s => ?_⟩
  have ret : exec .ret s = s.returnFrom := rfl
  have rf (zero : s.flag c = false) : exec (.rf c) s = s.returnFrom := State.ite_taken_of_eq zero _ _
  have rt (one : s.flag c = true) : exec (.rt c) s = s.returnFrom := State.ite_taken_of_eq one _ _
  exact ⟨rfl, s.ite_taken c false 5 3, s.ite_taken c true 5 3,
    fun held inRange => ⟨returnsIn_of_exec ret held inRange, fun zero => returnsIn_of_exec (rf zero) held inRange,
      fun one => returnsIn_of_exec (rt one) held inRange⟩,
    fun one => State.ite_taken_of_ne (ne_false_of_eq_true one) _ _,
    fun zero => State.ite_taken_of_ne (ne_true_of_eq_false zero) _ _,
    fun empty => ⟨exec_eq_underflow ret empty, fun zero => exec_eq_underflow (rf zero) empty,
      fun one => exec_eq_underflow (rt one) empty⟩⟩

/-- Settles O34: a restart is `callTo` behind its one byte, whatever `n`. -/
theorem restartPushesAndGoesToEightTimesN : Obligations.RestartPushesAndGoesToEightTimesN := by
  refine fun n => ⟨row_of_completes (decodeHead_rst n) ⟨rfl, rfl⟩, fun s => ?_⟩
  have rst : exec (.rst n) s = s.callTo 1 (restartAddr n) := rfl
  rw [← restartAddr_eq]
  exact ⟨rfl, callsTo_of_exec rst, exec_eq_overflow rst⟩

end Sys2Proof.Machine
end

section
/-! PROOFS. Ports (48_io R200 to R204): the two port instructions, and the history of output events, which every step extends by at
most one event and none reads. -/

namespace Sys2Proof.Machine

/-! ### The port instructions -/

/-- Settles O36: IN counts the read and loads its free value into A. -/
theorem inputLoadsTheFreePortByte : Obligations.InputLoadsTheFreePortByte := fun p =>
  ⟨row_of_completes (decodeHead_inp p) ⟨rfl, rfl⟩, fun s =>
    ⟨rfl, _, rfl, setReg_advance_frame (s.portRead p).2 .a (Config.portByte s.portReads p) 1⟩⟩

/-- Settles O37: OUT appends its event and moves `pc` on. -/
theorem outputAppendsOneEvent : Obligations.OutputAppendsOneEvent :=
  fun _ high => ⟨row_of_completes (decodeHead_out high) ⟨rfl, rfl⟩, fun _ => ⟨rfl, rfl⟩⟩

/-! ### Another history -/

/-- The state with another history of output events. -/
def State.withOutputs (s : State) (l : List (BitVec 5 × Byte)) : State := { s with outputs := l }

/-- A change to the next state passes through an M operand, whose access it does not look at (R33, R56). -/
theorem State.withM_mapNext (s : State) (g : State → State) (k k' : Byte → Result) (h : ∀ v, k' v = mapNext g (k v)) :
    s.withM k' = mapNext g (s.withM k) :=
  s.withM_setFlags s.flags g k k' h

@[simp] theorem State.withOutputs_stp (s : State) (l : List (BitVec 5 × Byte)) : (s.withOutputs l).stp = s.stp := rfl
@[simp] theorem State.withOutputs_stack (s : State) (l : List (BitVec 5 × Byte)) : (s.withOutputs l).stack = s.stack := rfl
@[simp] theorem State.withOutputs_unassigned (s : State) (l : List (BitVec 5 × Byte)) :
    (s.withOutputs l).unassigned = s.unassigned := rfl
@[simp] theorem State.withOutputs_fetch (s : State) (l : List (BitVec 5 × Byte)) : (s.withOutputs l).fetch = s.fetch := rfl

/-- The history has no part in a memory write (R57). -/
theorem State.orFault_storeByte_withOutputs (s : State) (l : List (BitVec 5 × Byte)) (a : Addr) (v : Byte)
    (k : State → State) (kept : ∀ t : State, k (t.withOutputs l) = (k t).withOutputs l) :
    orFault ((s.withOutputs l).storeByte a v) (fun u => .next (k u)) =
      mapNext (·.withOutputs l) (orFault (s.storeByte a v) fun u => .next (k u)) := by
  change orFault (if s.writable a then .ok ((s.poke a v).withOutputs l) else _) _ = _
  obtain ⟨writable, e⟩ | ⟨denied, e⟩ := s.storeByte_eq a v
  · simp [e, writable, kept, mapNext]
  · simp [e, denied, mapNext]

/-- The history has no part in a push (R37). -/
theorem State.callTo_withOutputs (s : State) (l : List (BitVec 5 × Byte)) (len : Nat) (target : Addr) :
    (s.withOutputs l).callTo len target = mapNext (·.withOutputs l) (s.callTo len target) := by
  change orFault (if s.stp < s.stack.length then _ else _) _ =
    mapNext _ (orFault (if s.stp < s.stack.length then _ else _) _)
  split <;> rfl

/-- The history has no part in a pop (R37). -/
theorem State.returnFrom_withOutputs (s : State) (l : List (BitVec 5 × Byte)) :
    (s.withOutputs l).returnFrom = mapNext (·.withOutputs l) s.returnFrom := by
  simp only [State.returnFrom, State.pop, State.withOutputs_stp, State.withOutputs_stack]
  cases s.stp with
  | zero => rfl
  | succ n =>
    dsimp only
    cases s.stack[n]? <;> rfl

/-- An instruction run on another history `l` answers the same, with the history it makes of `l` (R203). -/
theorem exec_withOutputs (i : Instr) (s : State) (l : List (BitVec 5 × Byte)) :
    exec i (s.withOutputs l) = mapNext (·.withOutputs (outputsAfter i (s.withOutputs l))) (exec i s) := by
  cases i with
  | movRR _ _ | mviR _ _ | incR _ | dcrR _ | rlc | rrc | ral | rar
  | addR _ | adi _ | adcR _ | aci _ | subR _ | sui _ | sbbR _ | sbi _
  | anaR _ | ani _ | oraR _ | ori _ | xraR _ | xri _ | cmpR _ | cpi _
  | inp _ | out _ | hlt | hltFF | nop | jmp _ => rfl
  | movRM _ | addM | adcM | subM | sbbM | anaM | oraM | xraM | cmpM => exact s.withM_mapNext _ _ _ fun _ => rfl
  | movMR _ | mviM _ => exact s.orFault_storeByte_withOutputs l _ _ _ fun _ => rfl
  | jf c _ | jt c _ =>
    change (if s.taken c _ then _ else _) = mapNext _ (if s.taken c _ then _ else _)
    split <;> rfl
  | call _ | rst _ => exact s.callTo_withOutputs l _ _
  | cf c _ | ct c _ =>
    change (if s.taken c _ then _ else _) = mapNext _ (if s.taken c _ then _ else _)
    split
    · exact s.callTo_withOutputs l _ _
    · rfl
  | ret => exact s.returnFrom_withOutputs l
  | rf c | rt c =>
    change (if s.taken c _ then _ else _) = mapNext _ (if s.taken c _ then _ else _)
    split
    · exact s.returnFrom_withOutputs l
    · rfl

/-- The events of an instruction, one at most, do not depend on the history they are appended to (R203). -/
theorem outputsAfter_withOutputs (i : Instr) (s : State) :
    ∃ more, more.length ≤ 1 ∧ ∀ l, outputsAfter i (s.withOutputs l) = l ++ more := by
  cases i with
  | out p => exact ⟨[(p, s.regs.a)], Nat.le_refl 1, fun _ => rfl⟩
  | _ => exact ⟨[], Nat.zero_le 1, fun l => l.append_nil.symm⟩

/-- An unassigned byte run on another history `l` does the same, and appends the same events to `l` (R85, log 9). -/
theorem State.runUnassigned_withOutputs (s : State) (b : Byte) (l : List (BitVec 5 × Byte)) :
    (s.withOutputs l).runUnassigned b =
      mapNext (·.withOutputs (l ++ unassignedEvents s.unassignedRuns b)) (s.runUnassigned b) := by
  have runs : (s.withOutputs l).unassignedRuns = s.unassignedRuns := rfl
  have after : (s.withOutputs l).afterUnassigned b =
      (s.afterUnassigned b).withOutputs (l ++ unassignedEvents s.unassignedRuns b) := rfl
  rw [State.runUnassigned, State.runUnassigned, runs, after]
  cases Config.unassignedStore s.unassignedRuns b with
  | none => rfl
  | some store => exact (s.afterUnassigned b).orFault_storeByte_withOutputs _ _ _ id fun _ => rfl

/-- What an unassigned byte does, at either value of the parameter, depends on the history as little (R6, R85). -/
theorem State.unassignedByte_withOutputs (s : State) (b : Byte) (l : List (BitVec 5 × Byte)) :
    (s.withOutputs l).unassignedByte b =
      mapNext (·.withOutputs (l ++ unassignedEvents s.unassignedRuns b)) (s.unassignedByte b) := by
  rw [State.unassignedByte, State.unassignedByte, State.withOutputs_unassigned]
  cases s.unassigned with
  | fault => rfl
  | free => exact s.runUnassigned_withOutputs b l

theorem unassignedEvents_length_le_one (n : Nat) (b : Byte) : (unassignedEvents n b).length ≤ 1 := by
  obtain e | ⟨_, _, e, -⟩ := unassignedEvents_eq n b <;> simp [e]

/-- R203 in one equation: a step makes at most one event, and run on another history it does the same and appends the same event to
that history. -/
theorem step_withOutputs (s : State) :
    ∃ more, more.length ≤ 1 ∧ ∀ l, step (s.withOutputs l) = mapNext (·.withOutputs (l ++ more)) (step s) := by
  cases fetched : s.fetch with
  | ok i =>
    obtain ⟨more, atMostOne, appended⟩ := outputsAfter_withOutputs i s
    refine ⟨more, atMostOne, fun l => ?_⟩
    rw [step_of_fetch s i fetched, step_of_fetch _ i ((s.withOutputs_fetch l).trans fetched), exec_withOutputs, appended]
  | error f =>
    suffices ∃ more, more.length ≤ 1 ∧
        ∀ l, (s.withOutputs l).onFetchFault f = mapNext (·.withOutputs (l ++ more)) (s.onFetchFault f) by
      simpa only [step, State.withOutputs_fetch, fetched] using this
    cases f with
    | illegalOpcode b _ => exact ⟨_, unassignedEvents_length_le_one _ b, s.unassignedByte_withOutputs b⟩
    | _ => exact ⟨[], Nat.zero_le 1, fun _ => rfl⟩

/-! ### No step is refused -/

theorem exec_ne_refused (i : Instr) (s : State) (r : Refusal) : exec i s ≠ .refused r := by
  have shape := exec_shape i s
  generalize exec i s = answer at shape
  cases shape with
  | sequential _ _ _ | goTo _ _ _ | halt _ _ => nofun
  | load f _ _ =>
    obtain ⟨-, e⟩ | ⟨-, e⟩ := s.withM_eq fun v => .next ((f v).advance i.length) <;> rw [e] <;> nofun
  | store v _ =>
    obtain ⟨-, e⟩ | ⟨-, e⟩ := s.storeM_eq v fun u => .next (u.advance i.length) <;> rw [e] <;> nofun
  | call target _ _ => obtain ⟨-, e⟩ | ⟨-, e⟩ := s.callTo_eq i.length target <;> rw [e] <;> nofun
  | ret _ _ => obtain ⟨_, -, -, e⟩ | ⟨-, e⟩ := s.returnFrom_eq <;> rw [e] <;> nofun

theorem State.runUnassigned_ne_refused (s : State) (b : Byte) (r : Refusal) : s.runUnassigned b ≠ .refused r := by
  obtain ⟨-, e⟩ | ⟨_, _, -, ⟨-, e⟩ | ⟨-, e⟩⟩ := s.runUnassigned_eq b <;> rw [e] <;> nofun

theorem step_ne_refused (s : State) (r : Refusal) : step s ≠ .refused r := by
  cases fetched : s.fetch with
  | ok i =>
    rw [step_of_fetch s i fetched]
    exact exec_ne_refused i s r
  | error f =>
    rw [step_of_fetch_error s f fetched]
    cases f with
    | illegalOpcode b _ =>
      rw [State.onFetchFault, State.unassignedByte]
      split
      · nofun
      · exact s.runUnassigned_ne_refused b r
    | _ => nofun

/-! ### The statements -/

/-- Settles O54: `step_withOutputs` at the history that stands there already, and at the other. -/
theorem outputHistoryIsNeverRead : Obligations.OutputHistoryIsNeverRead := by
  intro s l
  obtain ⟨more, -, ran⟩ := step_withOutputs s
  have own : step s = _ := ran s.outputs
  have other : step { s with outputs := l } = _ := ran l
  cases answer : step s with
  | next t =>
    rw [answer] at own other
    exact ⟨more, congrArg State.outputs (Host.Outcome.next.inj own), other⟩
  | fault f =>
    rw [answer] at other
    exact other
  | refused r => exact step_ne_refused s r answer

/-- A step makes at most one event (R202, R203). -/
theorem step_outputs {s t : State} (completes : step s = .next t) :
    ∃ more, t.outputs = s.outputs ++ more ∧ more.length ≤ 1 := by
  obtain ⟨more, atMostOne, ran⟩ := step_withOutputs s
  have own : step s = _ := ran s.outputs
  rw [completes] at own
  exact ⟨more, congrArg State.outputs (Host.Outcome.next.inj own), atMostOne⟩

/-- Settles O46, by induction on the number of steps. -/
theorem outputHistoryOnlyGrows : Obligations.OutputHistoryOnlyGrows := by
  intro n
  induction n with
  | zero =>
    rintro s _ rfl
    exact ⟨[], s.outputs.append_nil.symm, Nat.le_refl 0⟩
  | succ n ih =>
    rintro s t ⟨u, first, others⟩
    obtain ⟨event, appended, atMostOne⟩ := step_outputs first
    obtain ⟨more, later, bound⟩ := ih u t others
    refine ⟨event ++ more, ?_, ?_⟩
    · rw [later, appended, List.append_assoc]
    · rw [List.length_append]
      omega

end Sys2Proof.Machine
end

section
/-! PROOFS. Halt and no-operation (49_halt_nop R210 to R213), the cycle column (70_reset_and_hazards R261), and the worked examples
of the source (95_test_vectors). -/

namespace Sys2Proof.Machine

/-! ### Halt and no-operation -/

/-- Settles O12: a halted machine fetches nothing. -/
theorem haltedMachineHasNoStep : Obligations.HaltedMachineHasNoStep := by
  intro s halted
  have stops := step_of_halted s (fetch_halted s halted)
  refine ⟨stops, fun t => ?_⟩
  rw [stops]
  nofun

theorem step_halt_ne_next (s u : State) : step s.halt ≠ .next u := by
  obtain ⟨-, noStep⟩ := haltedMachineHasNoStep s.halt s.halt_halted
  exact noStep u

/-- Settles O38: both rows run `halt`, and a halted machine has no step. -/
theorem haltStopsTheMachine : Obligations.HaltStopsTheMachine := by
  refine ⟨row_of_completes (head := .f1 .hlt) rfl ⟨rfl, rfl⟩, row_of_completes (head := .f1 .hlt) rfl ⟨rfl, rfl⟩,
    row_of_completes (head := .f1 .hltFF) rfl ⟨rfl, rfl⟩, fun s => ⟨rfl, rfl, rfl, rfl, fun t u halts => ?_⟩⟩
  have ended : Host.Outcome.next s.halt = .next t := halts.elim id id
  obtain rfl := Host.Outcome.next.inj ended
  exact step_halt_ne_next s u

/-- A register written with what it holds is no change (R24, R213). -/
theorem State.setReg_reg (s : State) (r : Reg) : s.setReg r (s.reg r) = s := by
  rw [State.setReg, State.reg, Regs.set_get]

/-- Settles O39: both write A with what it holds and move `pc` on. -/
theorem nopIsMovAA : Obligations.NopIsMovAA := by
  refine ⟨decode_of_f1 (decodeHead_movRR .a .a), rfl, rfl, fun s => ⟨rfl, rfl, ?_⟩⟩
  calc exec .nop s = .next ((s.setReg .a (s.reg .a)).advance 1) := rfl
    _ = .next (s.advance 1) := by rw [State.setReg_reg]

/-! ### The cycle column -/

/-- The cycles of the accesses to an instruction's own bytes: a PCI for the opcode byte, a PCR for each operand byte (R53, R261). -/
theorem map_cycle_byteAccesses (s : State) (n : Nat) :
    (s.byteAccesses (n + 1)).map Access.cycle = .pci :: List.replicate n .pcr := by
  simp [State.byteAccesses, Access.cycle, Function.comp_def]

/-- Settles O58: the cycles of an instruction's own bytes, and behind them the cycle of its access to M or to a port, if any. -/
theorem cyclesAgreeWithTheAccessOrder : Obligations.CyclesAgreeWithTheAccessOrder := by
  intro i s
  obtain ⟨n, long⟩ : ∃ n, i.length = n + 1 := by cases i <;> exact ⟨_, rfl⟩
  rw [accesses_eq_append, List.map_append, long, map_cycle_byteAccesses]
  cases i <;> cases long <;> rfl

/-! ### The worked examples -/

/-- Settles O8, by the entry of the opcode map at the word of each example. -/
theorem sourceExamplesDecode : Obligations.SourceExamplesDecode :=
  ⟨decode_of_f1 (decodeHead_movRR .b .d) [], decode_of_f1 (decodeHead_incR (r := .l) nofun) [],
    decode_of_f1 (decodeHead_regInstr .add .e) [], decode_of_f2 (decodeHead_immInstr .ana) 0b11110000 [],
    decode_of_f1 (decodeHead_regInstr .cmp .c) [], decode_of_f3 (decodeHead_condJump true .z) 0b01100110 0 []⟩

end Sys2Proof.Machine
end
